-- ==== Sys2Proof/Config.lean ====
section
/-! DEFINITION. What an instance of FSYNC fixes: the implementation parameters of
spec 00_scope.md R6. A model "takes each as an argument": `Params` is a field of State that no
operation writes, so a statement about every state is a statement about every instance. -/

namespace Sys2Proof

/-- The parameters of one instance (00_scope.md R6). The ring capacity RC is `maxPayload`, and
CNT_W is fixed at 32 (the counters' type). -/
structure Params where
  /-- MAX_PAYLOAD: the largest payload length, and the ring capacity RC. -/
  maxPayload : Nat
  /-- MAX_START: the largest start-byte sequence length. -/
  maxStart : Nat
  /-- MAX_FIELDS: the largest number of fields in a schema. -/
  maxFields : Nat
  deriving DecidableEq, Repr

/-- The default instance, the one the spec's worked examples and addresses use (R6). -/
def Params.default : Params where
  maxPayload := 64
  maxStart := 8
  maxFields := 16

/-- The constraint column of R6. -/
abbrev Params.Valid (p : Params) : Prop :=
  1 ≤ p.maxPayload ∧ p.maxPayload ≤ 256 ∧ p.maxStart ≤ 64 ∧ 1 ≤ p.maxFields ∧ p.maxFields ≤ 32

/-- How many START[w] registers are implemented: ceil(MAX_START / 4) (10_state.md R34). -/
def Params.startWords (p : Params) : Nat := (p.maxStart + 3) / 4

/-- How many REC_RAW[w] registers are implemented: ceil(MAX_PAYLOAD / 4) (10_state.md R34). -/
def Params.recWords (p : Params) : Nat := (p.maxPayload + 3) / 4

/-- BASE_ADDR: where the platform places the 4 KiB window. The spec leaves it OPEN (00_scope.md R6,
20_memory.md R81): no value is chosen, and nothing in Lean can evaluate it. See log entry 2. -/
opaque Config.baseAddr : Nat

end Sys2Proof
end

