-- ==== Sys2Proof/Word.lean ====
section
/-! DEFINITION. The words FSYNC handles: the stream byte and the 32-bit register
(spec 00_scope.md R7, R8), and the table of values that the schema registers use. -/

namespace Sys2Proof

/-- A stream byte, "raw octets" (00_scope.md R7). -/
abbrev Byte := BitVec 8

/-- A host register: "an unsigned 32-bit bit vector" (00_scope.md R8). -/
abbrev Word := BitVec 32

/-- The table of the `n` values `f 0, …, f (n-1)`. -/
def table {α : Type} (n : Nat) (f : Nat → α) : Vector α n :=
  ⟨⟨(List.range n).map f⟩, by simp⟩

end Sys2Proof
end

