-- ==== Sys2Proof/Syntax.lean ====
section
/-! DEFINITION. The operations of FSYNC: one constructor of `Instr` per mnemonic of
spec/opcode_table.json (30_encoding.md R118). Where the table lists one mnemonic in several rows
(WR_RO in thirteen, CORE_IDLE in two), an operand says which row the operation is. -/

namespace Sys2Proof

/-- A slot of the host register map (10_state.md R33, R34; 30_encoding.md R111): a register, an entry
of a window, or an unmapped word address. -/
inductive Reg where
  | id | params | ctrl | cfg | status | err | layout | parity | fillpend
  | seeks | pfail | psucc | recctrl | headptr
  | start (w : BitVec 4)
  | field (i : BitVec 5)
  | recRaw (w : BitVec 6)
  | recElem (k : BitVec 8)
  | unmapped (a : BitVec 10)
  deriving DecidableEq, Repr

/-- The read-only registers, the targets of WR_RO (45_status_counters.md R330). -/
inductive RoReg where
  | id | params | status | layout | parity | fillpend | seeks | pfail | psucc | headptr
  | recRaw (w : BitVec 6)
  | recElem (k : BitVec 8)
  deriving DecidableEq, Repr

/-- The two rows of CORE_IDLE (30_encoding.md R112, 42_synchronizer.md R224). -/
inductive IdleRow where
  /-- EN = 0. -/
  | disabled
  /-- EN = 1, FULL = 0, HAVE = 0. -/
  | nothingPending
  deriving DecidableEq, Repr

/-- One operation of a cycle. -/
inductive Instr where
  /-- RD_ID (R320). -/
  | rdId
  /-- RD_PARAMS (R321). -/
  | rdParams
  /-- RD_CTRL (R161). -/
  | rdCtrl
  /-- RD_CFG (R166). -/
  | rdCfg
  /-- RD_STATUS (R322). -/
  | rdStatus
  /-- RD_ERR (R172). -/
  | rdErr
  /-- RD_LAYOUT (R323). -/
  | rdLayout
  /-- RD_PARITY (R324). -/
  | rdParity
  /-- RD_FILLPEND (R325). -/
  | rdFillpend
  /-- RD_SEEKS (R327). -/
  | rdSeeks
  /-- RD_PFAIL (R328). -/
  | rdPfail
  /-- RD_PSUCC (R329). -/
  | rdPsucc
  /-- RD_RECCTRL (R287). -/
  | rdRecctrl
  /-- RD_HEADPTR (R326). -/
  | rdHeadptr
  /-- WR_RO (R330): a write to a read-only register. -/
  | wrRo (r : RoReg) (wdata : Word)
  /-- WR_CTRL (R162). -/
  | wrCtrl (wdata : Word)
  /-- CONSTRUCT (R164): the effect of WR_CTRL with wdata[0] = 1; `hi` is wdata[31:1], ignored. -/
  | construct (hi : BitVec 31)
  /-- STOP (R165): the effect of WR_CTRL with wdata[0] = 0; `hi` is wdata[31:1], ignored. -/
  | stop (hi : BitVec 31)
  /-- WR_CFG (R167). -/
  | wrCfg (wdata : Word)
  /-- WR_ERR (R174). -/
  | wrErr (wdata : Word)
  /-- WR_RECCTRL (R286). -/
  | wrRecctrl (wdata : Word)
  /-- RD_START (R168), w = ADDR[5:2]. -/
  | rdStart (w : BitVec 4)
  /-- WR_START (R169), w = ADDR[5:2]. -/
  | wrStart (w : BitVec 4) (wdata : Word)
  /-- RD_FIELD (R170), i = ADDR[6:2]. -/
  | rdField (i : BitVec 5)
  /-- WR_FIELD (R171), i = ADDR[6:2]. -/
  | wrField (i : BitVec 5) (wdata : Word)
  /-- RD_RECRAW (R284), w = ADDR[7:2]. -/
  | rdRecraw (w : BitVec 6)
  /-- RD_RECELEM (R285), k = ADDR[9:2]. -/
  | rdRecelem (k : BitVec 8)
  /-- RD_UNMAPPED (R331), a = ADDR[11:2]. -/
  | rdUnmapped (a : BitVec 10)
  /-- WR_UNMAPPED (R331), a = ADDR[11:2]. -/
  | wrUnmapped (a : BitVec 10) (wdata : Word)
  /-- PUSH (R201), b = in_data[7:0]. -/
  | push (b : Byte)
  /-- CORE_IDLE (R224). -/
  | coreIdle (row : IdleRow)
  /-- VALIDATE_ACCEPT (R251). -/
  | validateAccept
  /-- CORE_STALL (R253). -/
  | coreStall
  /-- VALIDATE_REJECT (R252). -/
  | validateReject
  /-- SCAN_ACCUM (R223). -/
  | scanAccum
  /-- SCAN_SEEK_HIT (R221). -/
  | scanSeekHit
  /-- SCAN_SEEK_MISS (R222). -/
  | scanSeekMiss
  /-- RESET (R370): the input rst = 1 for one cycle; no transaction word. -/
  | reset
  deriving DecidableEq, Repr

end Sys2Proof
end

