-- ==== Sys2Proof/WellFormed.lean ====
section
/-! DEFINITION. Which terms of `Instr` are operations of an instance: a window operation names an
implemented entry, and an unmapped operation an offset that no implemented register has
(10_state.md R34, 30_encoding.md R111). -/

namespace Sys2Proof

/-- The unmapped word addresses of R34: 0x038..0x03F, 0x200..0x3FF, 0x800..0xFFF, and the
unimplemented entries of the four windows. `n` is ADDR[11:2]. -/
def unmappedWord (p : Params) (n : Nat) : Bool :=
  n == 14 || n == 15
    || (16 ≤ n && n < 32 && p.startWords ≤ n - 16)
    || (32 ≤ n && n < 64 && p.maxFields ≤ n - 32)
    || (64 ≤ n && n < 128 && p.recWords ≤ n - 64)
    || (128 ≤ n && n < 256)
    || (256 ≤ n && n < 512 && p.maxPayload ≤ n - 256)
    || 512 ≤ n

/-- A write to a read-only register names an implemented entry of its window. -/
def RoReg.implemented (p : Params) : RoReg → Bool
  | .recRaw w => w.toNat < p.recWords
  | .recElem k => k.toNat < p.maxPayload
  | .id | .params | .status | .layout | .parity | .fillpend | .seeks | .pfail | .psucc | .headptr => true

/-- The operation exists in an instance with parameters `p`. -/
def wellFormed (p : Params) : Instr → Bool
  | .rdStart w | .wrStart w _ => w.toNat < p.startWords
  | .rdField i | .wrField i _ => i.toNat < p.maxFields
  | .rdRecraw w => w.toNat < p.recWords
  | .rdRecelem k => k.toNat < p.maxPayload
  | .wrRo r _ => r.implemented p
  | .rdUnmapped a | .wrUnmapped a _ => unmappedWord p a.toNat
  | .rdId | .rdParams | .rdCtrl | .rdCfg | .rdStatus | .rdErr | .rdLayout | .rdParity | .rdFillpend
  | .rdSeeks | .rdPfail | .rdPsucc | .rdRecctrl | .rdHeadptr | .wrCtrl _ | .construct _ | .stop _
  | .wrCfg _ | .wrErr _ | .wrRecctrl _ | .push _ | .coreIdle _ | .validateAccept | .coreStall
  | .validateReject | .scanAccum | .scanSeekHit | .scanSeekMiss | .reset => true

end Sys2Proof
end

