-- ==== Sys2Proof/Decode.lean ====
section
/-! DEFINITION. The transaction word TW of 30_encoding.md R110 (46 bits: CH, ADDR, DATA), its decoder
(R111, R112, total, rejecting by name), its encoder, and `decodeTableWord` over the numbering of
spec/opcode_table.json. The machine itself carries no TW (R110: "a notation of this spec; no bus
carries it"): Machine/Step.lean calls `decodeBus` on the bus pins and `decodeCore` on the selector. -/

namespace Sys2Proof

/-- Why a word is no operation of the table (30_encoding.md R110). -/
inductive DecodeError where
  /-- CH = 00 with ADDR or DATA[31:7] not zero. -/
  | coreWordNotZero
  /-- CH = 11 with ADDR or DATA[31:8] not zero. -/
  | pushWordNotZero
  deriving DecidableEq, Repr

/-! ### The register map -/

/-- The slot at the word address `n` = ADDR[11:2], by the patterns of 30_encoding.md R111; an
unimplemented window entry is an unmapped offset (10_state.md R34). The low address bits ADDR[1:0]
are not looked at (20_memory.md R82). -/
def locate (p : Params) (n : Nat) : Reg :=
  match n with
  | 0 => .id
  | 1 => .params
  | 2 => .ctrl
  | 3 => .cfg
  | 4 => .status
  | 5 => .err
  | 6 => .layout
  | 7 => .parity
  | 8 => .fillpend
  | 9 => .seeks
  | 10 => .pfail
  | 11 => .psucc
  | 12 => .recctrl
  | 13 => .headptr
  | n =>
    if 16 ≤ n ∧ n < 32 ∧ n - 16 < p.startWords then .start (.ofNat 4 (n - 16))
    else if 32 ≤ n ∧ n < 64 ∧ n - 32 < p.maxFields then .field (.ofNat 5 (n - 32))
    else if 64 ≤ n ∧ n < 128 ∧ n - 64 < p.recWords then .recRaw (.ofNat 6 (n - 64))
    else if 256 ≤ n ∧ n < 512 ∧ n - 256 < p.maxPayload then .recElem (.ofNat 8 (n - 256))
    else .unmapped (.ofNat 10 n)

/-- The word address of a slot: the offset column of 10_state.md R33, divided by 4. -/
def Reg.word : Reg → BitVec 10
  | .id => 0
  | .params => 1
  | .ctrl => 2
  | .cfg => 3
  | .status => 4
  | .err => 5
  | .layout => 6
  | .parity => 7
  | .fillpend => 8
  | .seeks => 9
  | .pfail => 10
  | .psucc => 11
  | .recctrl => 12
  | .headptr => 13
  | .start w => .ofNat 10 (16 + w.toNat)
  | .field i => .ofNat 10 (32 + i.toNat)
  | .recRaw w => .ofNat 10 (64 + w.toNat)
  | .recElem k => .ofNat 10 (256 + k.toNat)
  | .unmapped a => a

/-- A read-only register as a slot of the map. -/
def RoReg.slot : RoReg → Reg
  | .id => .id
  | .params => .params
  | .status => .status
  | .layout => .layout
  | .parity => .parity
  | .fillpend => .fillpend
  | .seeks => .seeks
  | .pfail => .pfail
  | .psucc => .psucc
  | .headptr => .headptr
  | .recRaw w => .recRaw w
  | .recElem k => .recElem k

/-! ### Bus operations (30_encoding.md R111) -/

/-- The read-mnemonic column of R111. -/
def readInstr : Reg → Instr
  | .id => .rdId
  | .params => .rdParams
  | .ctrl => .rdCtrl
  | .cfg => .rdCfg
  | .status => .rdStatus
  | .err => .rdErr
  | .layout => .rdLayout
  | .parity => .rdParity
  | .fillpend => .rdFillpend
  | .seeks => .rdSeeks
  | .pfail => .rdPfail
  | .psucc => .rdPsucc
  | .recctrl => .rdRecctrl
  | .headptr => .rdHeadptr
  | .start w => .rdStart w
  | .field i => .rdField i
  | .recRaw w => .rdRecraw w
  | .recElem k => .rdRecelem k
  | .unmapped a => .rdUnmapped a

/-- The write-mnemonic column of R111. A write to CTRL is WR_CTRL there; which effect it has,
CONSTRUCT or STOP, the state decides (40_configuration.md R162). -/
def writeInstr (d : Word) : Reg → Instr
  | .id => .wrRo .id d
  | .params => .wrRo .params d
  | .ctrl => .wrCtrl d
  | .cfg => .wrCfg d
  | .status => .wrRo .status d
  | .err => .wrErr d
  | .layout => .wrRo .layout d
  | .parity => .wrRo .parity d
  | .fillpend => .wrRo .fillpend d
  | .seeks => .wrRo .seeks d
  | .pfail => .wrRo .pfail d
  | .psucc => .wrRo .psucc d
  | .recctrl => .wrRecctrl d
  | .headptr => .wrRo .headptr d
  | .start w => .wrStart w d
  | .field i => .wrField i d
  | .recRaw w => .wrRo (.recRaw w) d
  | .recElem k => .wrRo (.recElem k) d
  | .unmapped a => .wrUnmapped a d

/-- The operation of a bus access: `write` says which mnemonic column applies, `d` is the write data. -/
def decodeBus (p : Params) (write : Bool) (addr : BitVec 12) (d : Word) : Instr :=
  let slot := locate p (addr.toNat / 4)
  if write then writeInstr d slot else readInstr slot

/-! ### Core actions (30_encoding.md R112) -/

/-- A row of the decode table over the selector S: a mask bit of 1 means the bit is compared. -/
structure SelectorRow where
  mask : BitVec 7
  pattern : BitVec 7
  action : Instr
  deriving DecidableEq, Repr

/-- The row's pattern matches the selector. -/
def SelectorRow.hits (r : SelectorRow) (sel : BitVec 7) : Bool := sel &&& r.mask == r.pattern

/-- The decode table of R112, in its order. -/
def coreTable : List SelectorRow :=
  [ ⟨0x40, 0x00, .coreIdle .disabled⟩,
    ⟨0x71, 0x61, .validateAccept⟩,
    ⟨0x71, 0x71, .coreStall⟩,
    ⟨0x61, 0x60, .validateReject⟩,
    ⟨0x68, 0x40, .coreIdle .nothingPending⟩,
    ⟨0x6C, 0x4C, .scanAccum⟩,
    ⟨0x6E, 0x4A, .scanSeekHit⟩,
    ⟨0x6E, 0x48, .scanSeekMiss⟩ ]

/-- The core action a selector names. The table covers all 128 selectors (R112; proved in
Laws/Decode.lean), so the last case is never taken. -/
def decodeCore (sel : BitVec 7) : Instr :=
  match coreTable.find? (·.hits sel) with
  | some r => r.action
  | none => .coreIdle .disabled

/-! ### The transaction word -/

/-- CH, bits [45:44]. -/
def twChannel (tw : BitVec 46) : BitVec 2 := tw.extractLsb' 44 2

/-- ADDR, bits [43:32]. -/
def twAddr (tw : BitVec 46) : BitVec 12 := tw.extractLsb' 32 12

/-- DATA, bits [31:0]. -/
def twData (tw : BitVec 46) : Word := tw.extractLsb' 0 32

/-- A transaction word from its three fields (R110). -/
def makeWord (ch : BitVec 2) (addr : BitVec 12) (data : Word) : BitVec 46 := ch ++ addr ++ data

/-- The operation a transaction word names (R110, R111, R112). A read's DATA is 0 in R110 and is not
compared by the table's mask; it is not looked at here (log entry 8). -/
def decodeTW (p : Params) (tw : BitVec 46) : Except DecodeError Instr :=
  let addr := twAddr tw
  let data := twData tw
  match (twChannel tw).toNat with
  | 0 =>
    if addr = 0 ∧ data.extractLsb' 7 25 = 0 then .ok (decodeCore (data.extractLsb' 0 7))
    else .error .coreWordNotZero
  | 1 => .ok (decodeBus p false addr data)
  | 2 => .ok (decodeBus p true addr data)
  | _ =>
    if addr = 0 ∧ data.extractLsb' 8 24 = 0 then .ok (.push (data.extractLsb' 0 8))
    else .error .pushWordNotZero

/-- The operation the decoder reads from the `nbits` low bits of `w`, numbered as
spec/opcode_table.json numbers them (bit 0 of a TW is bit 0 of the table's match and mask), for the
default instance. Bits 47..46 of a word of six bytes are no bits of a TW and must be zero. -/
def decodeTableWord (nbits w : Nat) : Option Instr :=
  let v := w % 2 ^ nbits
  if v < 2 ^ 46 then (decodeTW .default (.ofNat 46 v)).toOption else none

/-! ### The encoder -/

/-- The word of a bus read of a slot: CH = 01, ADDR[1:0] = 0, DATA = 0. -/
def readWord (r : Reg) : BitVec 46 := makeWord 1 (r.word ++ 0#2) 0

/-- The word of a bus write of `d` to a slot: CH = 10, ADDR[1:0] = 0. -/
def writeWord (r : Reg) (d : Word) : BitVec 46 := makeWord 2 (r.word ++ 0#2) d

/-- The word of a core action with the selector `sel`: CH = 00, ADDR = 0. -/
def coreWord (sel : BitVec 7) : BitVec 46 := makeWord 0 0 (sel.setWidth 32)

/-- The transaction word of an operation, with every ignored bit 0; RESET has none (R370). A core
action has one word for each selector its row matches: the encoder gives the one the operation's own
rule or 95_test_vectors.md names (0x65 accept, 0x64 reject, 0x75 stall: V-VAL-1, V-VAL-2, V-VAL-6). -/
def encode : Instr → Option (BitVec 46)
  | .rdId => some (readWord .id)
  | .rdParams => some (readWord .params)
  | .rdCtrl => some (readWord .ctrl)
  | .rdCfg => some (readWord .cfg)
  | .rdStatus => some (readWord .status)
  | .rdErr => some (readWord .err)
  | .rdLayout => some (readWord .layout)
  | .rdParity => some (readWord .parity)
  | .rdFillpend => some (readWord .fillpend)
  | .rdSeeks => some (readWord .seeks)
  | .rdPfail => some (readWord .pfail)
  | .rdPsucc => some (readWord .psucc)
  | .rdRecctrl => some (readWord .recctrl)
  | .rdHeadptr => some (readWord .headptr)
  | .wrRo r d => some (writeWord r.slot d)
  | .wrCtrl d => some (writeWord .ctrl d)
  | .construct hi => some (writeWord .ctrl (hi ++ 1#1))
  | .stop hi => some (writeWord .ctrl (hi ++ 0#1))
  | .wrCfg d => some (writeWord .cfg d)
  | .wrErr d => some (writeWord .err d)
  | .wrRecctrl d => some (writeWord .recctrl d)
  | .rdStart w => some (readWord (.start w))
  | .wrStart w d => some (writeWord (.start w) d)
  | .rdField i => some (readWord (.field i))
  | .wrField i d => some (writeWord (.field i) d)
  | .rdRecraw w => some (readWord (.recRaw w))
  | .rdRecelem k => some (readWord (.recElem k))
  | .rdUnmapped a => some (readWord (.unmapped a))
  | .wrUnmapped a d => some (writeWord (.unmapped a) d)
  | .push b => some (makeWord 3 0 (b.setWidth 32))
  | .coreIdle .disabled => some (coreWord 0x00)
  | .coreIdle .nothingPending => some (coreWord 0x40)
  | .validateAccept => some (coreWord 0x65)
  | .coreStall => some (coreWord 0x75)
  | .validateReject => some (coreWord 0x64)
  | .scanAccum => some (coreWord 0x4C)
  | .scanSeekHit => some (coreWord 0x4A)
  | .scanSeekMiss => some (coreWord 0x48)
  | .reset => none

/-- The operation R111 names for the word of `i`: CONSTRUCT and STOP are effects of a write to CTRL,
whose word R111 calls WR_CTRL (40_configuration.md R164, R165: "Encoding: as WR_CTRL"); every other
operation is named by its own word. -/
def Instr.asDecoded : Instr → Instr
  | .construct hi => .wrCtrl (hi ++ 1#1)
  | .stop hi => .wrCtrl (hi ++ 0#1)
  | i => i

/-! ### The platform's address map -/

/-- The window offset of a system byte address, where it lies in FSYNC's 4 KiB window at BASE_ADDR
(00_scope.md R6, 20_memory.md R81, 60_exceptions.md R352). -/
def windowOffset (a : Nat) : Option (BitVec 12) :=
  if Config.baseAddr ≤ a ∧ a < Config.baseAddr + 4096 then some (.ofNat 12 (a - Config.baseAddr))
  else none

end Sys2Proof
end

