-- ==== Sys2Proof/Machine/State.lean ====
section
/-! DEFINITION. The state of FSYNC (spec 10_state.md R30 and the rules it names), the inputs of a
cycle (R32), why a step can stop, and the state after reset (70_reset_and_hazards.md R371).

Counts, offsets and pointers are `Nat`, since 00_scope.md R8 computes them on unbounded natural
numbers; the invariant of Sys2Proof/Safety.lean keeps each within the width 10_state.md gives it. What
the host reads and writes as bits is a bit vector. -/

namespace Sys2Proof.Machine

/-- A byte store of 20_memory.md R80 (the ring RING, the output record OUT): the entries that do not
read as `unwrittenByte`, by strictly rising index. -/
abbrev Memory := List Host.Cell

/-- What a byte of RING or OUT that nothing has written reads as. The spec leaves it open
(70_reset_and_hazards.md R371: "unspecified (any value)") and says no rule observes it
(20_memory.md R90). DESIGN CHOICE, log entry 3. -/
def unwrittenByte : Byte := 0

/-- The latched schema L with its derived quantities (10_state.md R51, R52). -/
structure Schema where
  /-- L_BIG: the byte order of multi-byte fields, true for big-endian. -/
  big : Bool
  /-- L_STARTLEN. -/
  startLen : BitVec 8
  /-- L_START[j]; entries from MAX_START on do not exist and hold 0. -/
  start : Vector Byte 64
  /-- L_NF. -/
  nf : BitVec 8
  /-- L_ENC[i]; entries from MAX_FIELDS on do not exist and hold 0 (so too L_PAR and L_CNT). -/
  enc : Vector (BitVec 4) 32
  /-- L_PAR[i]. -/
  par : Vector Bool 32
  /-- L_CNT[i]. -/
  cnt : Vector (BitVec 8) 32
  /-- FOFF[i]: the byte offset of field i in the payload, for i < L_NF. -/
  foff : Vector Nat 32
  /-- FELEM[i]: the index of field i's first element, for i < L_NF. -/
  felem : Vector Nat 32
  /-- L_P: the payload length in bytes. -/
  payloadLen : Nat
  /-- L_NELEM: the number of elements. -/
  nelem : Nat
  /-- L_PPRES: the schema has a parity field. -/
  ppres : Bool
  /-- L_PIDX: the parity field's index. -/
  pidx : Nat
  /-- L_POFF: the parity byte's offset in the payload. -/
  poff : Nat
  /-- L_PENC: the parity field's encoding. -/
  penc : BitVec 4
  deriving DecidableEq, Repr

/-- The schema after reset: every item is 0 (R51, R52). -/
def Schema.zero : Schema where
  big := false
  startLen := 0
  start := .replicate 64 0
  nf := 0
  enc := .replicate 32 0
  par := .replicate 32 false
  cnt := .replicate 32 0
  foff := .replicate 32 0
  felem := .replicate 32 0
  payloadLen := 0
  nelem := 0
  ppres := false
  pidx := 0
  poff := 0
  penc := 0

/-- The input ports of one cycle (10_state.md R32). -/
structure CycleIn where
  /-- `rst`: synchronous reset. -/
  rst : Bool
  /-- `in_valid`: the stream source offers a byte. -/
  inValid : Bool
  /-- `in_data`: the offered byte. -/
  inData : Byte
  /-- `bus_req`: 01 read, 10 write, 00 and 11 no access. -/
  busReq : BitVec 2
  /-- `bus_addr`: the byte address within the window. -/
  busAddr : BitVec 12
  /-- `bus_wdata`. -/
  busWdata : Word
  deriving DecidableEq, Repr

/-- A cycle in which nothing drives an input: rst = 0, in_valid = 0, bus = NONE (the NOP of
30_encoding.md R119). -/
def CycleIn.idle : CycleIn where
  rst := false
  inValid := false
  inData := 0
  busReq := 0
  busAddr := 0
  busWdata := 0

/-- The state of one FSYNC instance, with its output ports and its environment. -/
structure State where
  /-- The instance's parameters (00_scope.md R6), which no operation writes. -/
  params : Params
  /-- CFG (R38): the stored register, reserved bits 0. -/
  cfg : Word
  /-- START[w] (R47); only w < ceil(MAX_START/4) are implemented, the others hold 0. -/
  start : Vector Word 16
  /-- FIELD[i] (R48); only i < MAX_FIELDS are implemented, the others hold 0. -/
  field : Vector Word 32
  /-- CTRL.EN (R37, R54). -/
  en : Bool
  /-- SV: a construct has succeeded since reset (R54). -/
  sv : Bool
  /-- ERR.CODE (R40). -/
  errCode : BitVec 4
  /-- ERR.FIDX (R40). -/
  errFidx : BitVec 5
  /-- ERR.WERR (R40). -/
  werr : Bool
  /-- The latched schema L (R51, R52). -/
  schema : Schema
  /-- PROGRESS: how many start bytes have matched (R53). -/
  progress : Nat
  /-- RING[0..RC-1] (R54). -/
  ring : Memory
  /-- HEAD: the ring index of logical offset 0 (R54). -/
  head : Nat
  /-- FILL: bytes accumulated into the current payload (R54). -/
  fill : Nat
  /-- PEND: ring bytes after the payload that are not yet scanned (R54). -/
  pend : Nat
  /-- OUT[0..MAX_PAYLOAD-1] (R56). -/
  out : Memory
  /-- OUT_VALID (R56). -/
  outValid : Bool
  /-- SEEKS (R44). -/
  seeks : Word
  /-- PFAIL (R44). -/
  pfail : Word
  /-- PSUCC (R44). -/
  psucc : Word
  /-- The port `in_ready` as driven in the cycle last run (R32, 41_stream_input.md R200). -/
  inReady : Bool
  /-- The port `rec_valid` as driven in the cycle last run (R32, 44_record_output.md R288). -/
  recValid : Bool
  /-- The port `bus_rdata` as driven in the cycle last run (R32). -/
  rdata : Word
  /-- The MODEL's own field: the inputs of the cycles to come, next cycle first. When it is empty
  every further cycle is idle (log entry 1). -/
  env : List CycleIn
  deriving DecidableEq, Repr

/-- Why the machine stops with a fault. FSYNC has none: "No input is undefined" and FSYNC "has no
fault, stuck or unpredictable state" (60_exceptions.md R345, R356). So the type is empty: nothing
raises a fault. -/
inductive Fault where
  deriving DecidableEq, Repr

/-- Why an operation has no meaning. -/
inductive Refusal where
  /-- An operation whose arm in Machine/Dispatch.lean is still rejected by name. Raised by no one:
  every arm has its meaning. Safe: the machine would stop where the hardware goes on. -/
  | notModelled (mnemonic : String)
  deriving DecidableEq, Repr

/-- ResetState (70_reset_and_hazards.md R371) of the instance with parameters `p`, with nothing on its
input ports. RING and OUT, unspecified there, hold nothing (log entry 3); the ports `in_ready`,
`rec_valid` and `bus_rdata` are 0 (log entry 4). -/
def State.resetOf (p : Params) : State where
  params := p
  cfg := 0
  start := .replicate 16 0
  field := .replicate 32 0
  en := false
  sv := false
  errCode := 0
  errFidx := 0
  werr := false
  schema := .zero
  progress := 0
  ring := []
  head := 0
  fill := 0
  pend := 0
  out := []
  outValid := false
  seeks := 0
  pfail := 0
  psucc := 0
  inReady := false
  recValid := false
  rdata := 0
  env := []

/-- The machine right after reset: the default instance. -/
def State.reset : State := .resetOf .default

end Sys2Proof.Machine
end

