-- ==== Sys2Proof/Machine/Operands.lean ====
section
/-! DEFINITION. Operand forms: the fields of the configuration registers (10_state.md R38, R47, R48),
the element sizes and extensions of the wire encodings (30_encoding.md R113), and the assembly of
bytes into words (10_state.md R49, 44_record_output.md R282; 30_encoding.md R115). -/

namespace Sys2Proof.Machine

/-! ### Register fields -/

/-- CFG.BIG, bit 0. -/
def cfgBig (c : Word) : Bool := c.getLsbD 0

/-- CFG.START_LEN, bits [15:8]. -/
def cfgStartLen (c : Word) : BitVec 8 := c.extractLsb' 8 8

/-- CFG.NFIELDS, bits [23:16]. -/
def cfgNfields (c : Word) : BitVec 8 := c.extractLsb' 16 8

/-- FIELD.ENC, bits [3:0]. -/
def fieldEnc (f : Word) : BitVec 4 := f.extractLsb' 0 4

/-- FIELD.PAR, bit 7. -/
def fieldPar (f : Word) : Bool := f.getLsbD 7

/-- FIELD.COUNT, bits [15:8]. -/
def fieldCount (f : Word) : BitVec 8 := f.extractLsb' 8 8

/-- The bits of CFG that a write stores: BIG, START_LEN and NFIELDS (40_configuration.md R167). -/
def cfgMask : Word := 0x00FFFF01

/-- The bits of FIELD[i] that a write stores: ENC, PAR and COUNT (40_configuration.md R171). -/
def fieldMask : Word := 0x0000FF8F

/-- START[w], 0 past the window. -/
def startAt (s : State) (w : Nat) : Word := s.start[w]?.getD 0

/-- FIELD[i], 0 past the window. -/
def fieldAt (s : State) (i : Nat) : Word := s.field[i]?.getD 0

/-- Start byte j: START[j div 4], byte lane j mod 4 (R47). -/
def startByte (s : State) (j : Nat) : Byte := (startAt s (j / 4)).extractLsb' (8 * (j % 4)) 8

/-! ### Latched schema items -/

/-- L_START[j]. -/
def schemaStart (l : Schema) (j : Nat) : Byte := l.start[j]?.getD 0

/-- L_ENC[i]. -/
def schemaEnc (l : Schema) (i : Nat) : BitVec 4 := l.enc[i]?.getD 0

/-- L_PAR[i]. -/
def schemaPar (l : Schema) (i : Nat) : Bool := l.par[i]?.getD false

/-- L_CNT[i], as a count. -/
def schemaCount (l : Schema) (i : Nat) : Nat := (l.cnt[i]?.getD 0).toNat

/-- FOFF[i]. -/
def schemaFoff (l : Schema) (i : Nat) : Nat := l.foff[i]?.getD 0

/-- FELEM[i]. -/
def schemaFelem (l : Schema) (i : Nat) : Nat := l.felem[i]?.getD 0

/-! ### Wire encodings -/

/-- size(e): the bytes of one element (R113, 10_state.md R52). The reserved codes 8..15 have no size;
a construct refuses them before any size is used (log entry 6). -/
def encSize (e : BitVec 4) : Nat :=
  match e.toNat with
  | 0 | 1 | 2 => 1
  | 3 | 4 => 2
  | 5 | 6 | 7 => 4
  | _ => 0

/-- sext_32(v, 8·n): the n-byte value v sign-extended to 32 bits (00_scope.md R8). -/
def signExtendBytes (n v : Nat) : Word := (BitVec.ofNat (8 * n) v).signExtend 32

/-- zext_32(v, 8·n). -/
def zeroExtendBytes (n v : Nat) : Word := (BitVec.ofNat (8 * n) v).zeroExtend 32

/-- The 32-bit value of the assembled integer u of encoding e (R113): signed encodings of 1 or 2 bytes
sign-extend, unsigned ones zero-extend, 4-byte ones are the bits themselves. -/
def extendElem (e : BitVec 4) (u : Nat) : Word :=
  match e.toNat with
  | 2 | 4 => signExtendBytes (encSize e) u
  | 5 | 6 | 7 => BitVec.ofNat 32 u
  | _ => zeroExtendBytes (encSize e) u

/-- Σ_{m<n} b(m)·2^(8m): the byte at the lowest offset is least significant (R282). -/
def littleEndian (bytes : List Byte) : Nat :=
  match bytes with
  | [] => 0
  | b :: rest => b.toNat + 256 * littleEndian rest

/-- Σ_{m<n} b(m)·2^(8(n-1-m)): the byte at the lowest offset is most significant (R282). -/
def bigEndian (bytes : List Byte) : Nat := littleEndian bytes.reverse

end Sys2Proof.Machine
end

