-- ==== Sys2Proof/Machine/Ops.lean ====
section
/-! DEFINITION. The named operations: byte stores, the ring (20_memory.md R91), the read-data port, the
guarded configuration write (40_configuration.md R173), the ConfigError that is FSYNC's only
"exception" (00_scope.md R9, 60_exceptions.md R340, R341), construct and stop (R163 to R165), and the
byte consumed by the matcher. FSYNC has no trap entry beyond recording the error, and no return
(60_exceptions.md R348, R349). -/

namespace Sys2Proof.Machine

/-! ### Byte stores -/

/-- The byte at index `a`. -/
def Memory.read (m : Memory) (a : Nat) : Byte :=
  match m with
  | [] => unwrittenByte
  | (x, v) :: rest => if x = a then v else Memory.read rest a

/-- `m` with the byte at index `a` set to `b`, keeping the canonical form: the entry is listed in
order, and it is not listed when `b` is what an unlisted index reads as. -/
def Memory.write (m : Memory) (a : Nat) (b : Byte) : Memory :=
  match m with
  | [] => if b = unwrittenByte then [] else [(a, b)]
  | (x, v) :: rest =>
    if a < x then (if b = unwrittenByte then (x, v) :: rest else (a, b) :: (x, v) :: rest)
    else if a = x then (if b = unwrittenByte then rest else (a, b) :: rest)
    else (x, v) :: Memory.write rest a b

/-- Canonical from index `lo` on: indices strictly rise from `lo`, and no entry reads as an unlisted
one does. -/
def Memory.wfFrom (lo : Nat) (m : Memory) : Bool :=
  match m with
  | [] => true
  | (x, v) :: rest => lo ≤ x && v != unwrittenByte && Memory.wfFrom (x + 1) rest

/-- The canonical form of a byte store. -/
def Memory.wf (m : Memory) : Bool := Memory.wfFrom 0 m

/-- Every listed index is below `n`, the size of the store. -/
def Memory.within (m : Memory) (n : Nat) : Bool := m.all (fun c => c.1 < n)

/-! ### The ring (10_state.md R54, R55, 20_memory.md R91) -/

/-- RC, the ring capacity in bytes: MAX_PAYLOAD (00_scope.md R6). -/
def ringCap (s : State) : Nat := s.params.maxPayload

/-- The ring index of logical offset k: (HEAD + k) mod RC. -/
def ringIndex (s : State) (k : Nat) : Nat := (s.head + k) % ringCap s

/-- RingRead(k), the byte at logical offset k from the head. -/
def ringRead (s : State) (k : Nat) : Byte := Memory.read s.ring (ringIndex s k)

/-- RingWrite(k, b) (00_scope.md R9). -/
def ringWrite (s : State) (k : Nat) (b : Byte) : State :=
  { s with ring := Memory.write s.ring (ringIndex s k) b }

/-- The payload bytes at logical offsets 0 .. n-1. -/
def ringPrefix (s : State) (n : Nat) : List Byte := (List.range n).map (ringRead s)

/-- The pending bytes, at logical offsets FILL .. FILL+PEND-1 (R54). -/
def ringPending (s : State) : List Byte := (List.range s.pend).map (fun k => ringRead s (s.fill + k))

/-- `cur`, where the next byte to scan lies (R55). -/
def ringCur (s : State) : Nat := ringIndex s s.fill

/-- `tail`, where the next pushed byte is written (R55). -/
def ringTail (s : State) : Nat := ringIndex s (s.fill + s.pend)

/-- The matcher consumes and drops the byte at HEAD: HEAD + 1 mod RC, PEND - 1
(42_synchronizer.md R221, R222). -/
def dropHead (s : State) : State :=
  { s with head := ringIndex s 1, pend := s.pend - 1 }

/-! ### Bus reads and guarded writes -/

/-- `rdata <- v`: a read changes no register (20_memory.md R83); the port shows the value. -/
def setRdata (s : State) (v : Word) : State := { s with rdata := v }

/-- IgnoredCfgWrite (40_configuration.md R173): no configuration register changes, and WERR is set. -/
def ignoredCfgWrite (s : State) : State := { s with werr := true }

/-- A write to a Cfg register whose effect would be `written`: performed while EN = 0, ignored while
EN = 1 (R173). -/
def cfgWrite (s written : State) : State := if s.en then ignoredCfgWrite s else written

/-! ### Construct and stop -/

/-- The sum of f 0, …, f (n-1). -/
def sumBelow (n : Nat) (f : Nat → Nat) : Nat := ((List.range n).map f).sum

/-- FIELD[i].COUNT · size(FIELD[i].ENC): the bytes of field i. -/
def fieldBytes (s : State) (i : Nat) : Nat :=
  (fieldCount (fieldAt s i)).toNat * encSize (fieldEnc (fieldAt s i))

/-- The last test of Check: the payload fits the ring (code 8). -/
def checkPayload (s : State) (nf : Nat) : BitVec 4 × BitVec 5 :=
  if sumBelow nf (fieldBytes s) > s.params.maxPayload then (8, 0) else (0, 0)

/-- The parity tests of Check over the indices `pars` of the fields marked PAR (codes 5, 6, 7), and
the payload test after them. -/
def checkParity (s : State) (nf : Nat) (pars : List Nat) : BitVec 4 × BitVec 5 :=
  match pars with
  | _ :: q :: _ => (5, .ofNat 5 q)
  | [q] =>
    if fieldCount (fieldAt s q) ≠ 1 then (6, .ofNat 5 q)
    else if encSize (fieldEnc (fieldAt s q)) ≠ 1 then (7, .ofNat 5 q)
    else checkPayload s nf
  | [] => checkPayload s nf

/-- Check(s) (40_configuration.md R163): (code, fidx) of the first test that fails, in the order
written there; code 0 when the configuration is legal. -/
def checkConfig (s : State) : BitVec 4 × BitVec 5 :=
  let nf := (cfgNfields s.cfg).toNat
  if (cfgStartLen s.cfg).toNat > s.params.maxStart then (1, 0)
  else if nf = 0 ∨ nf > s.params.maxFields then (2, 0)
  else
    match (List.range nf).find? (fun i => 8 ≤ (fieldEnc (fieldAt s i)).toNat) with
    | some i => (3, .ofNat 5 i)
    | none =>
      match (List.range nf).find? (fun i => fieldCount (fieldAt s i) == 0) with
      | some i => (4, .ofNat 5 i)
      | none => checkParity s nf ((List.range nf).filter (fun i => fieldPar (fieldAt s i)))

/-- L_CNT[i] · size(L_ENC[i]): the bytes of field i of the latched schema. -/
def schemaBytes (l : Schema) (i : Nat) : Nat := schemaCount l i * encSize (schemaEnc l i)

/-- The derived quantities of R52, computed from L. FOFF and FELEM are defined for i < L_NF only; the
other entries hold 0 (log entry 5). -/
def deriveSchema (l : Schema) : Schema :=
  let nf := l.nf.toNat
  let foff := fun i => if i < nf then sumBelow i (schemaBytes l) else 0
  let felem := fun i => if i < nf then sumBelow i (schemaCount l) else 0
  let pidx := (List.range nf).find? (schemaPar l)
  { l with
    foff := table 32 foff
    felem := table 32 felem
    payloadLen := sumBelow nf (schemaBytes l)
    nelem := sumBelow nf (schemaCount l)
    ppres := pidx.isSome
    pidx := pidx.getD 0
    poff := (pidx.map foff).getD 0
    penc := (pidx.map (schemaEnc l)).getD 0 }

/-- The schema that a successful construct latches from the configuration registers
(40_configuration.md R164, 10_state.md R51, R52). -/
def latchSchema (s : State) : Schema :=
  deriveSchema
    { Schema.zero with
      big := cfgBig s.cfg
      startLen := cfgStartLen s.cfg
      nf := cfgNfields s.cfg
      start := table 64 fun j => if j < s.params.maxStart then startByte s j else 0
      enc := table 32 fun i => if i < s.params.maxFields then fieldEnc (fieldAt s i) else 0
      par := table 32 fun i => if i < s.params.maxFields then fieldPar (fieldAt s i) else false
      cnt := table 32 fun i => if i < s.params.maxFields then fieldCount (fieldAt s i) else 0 }

/-- raise ConfigError(code, fidx) (00_scope.md R9, 60_exceptions.md R341): the error is recorded in
ERR and nothing else changes. -/
def raiseConfigError (s : State) (code : BitVec 4) (fidx : BitVec 5) : State :=
  { s with errCode := code, errFidx := fidx }

/-- The new decoder of a successful construct (R164): the schema is latched, the decoder state and the
counters are cleared, and EN and SV are 1. -/
def newDecoder (s : State) : State :=
  { s with
    schema := latchSchema s
    sv := true
    en := true
    errCode := 0
    errFidx := 0
    progress := 0
    head := 0
    fill := 0
    pend := 0
    outValid := false
    seeks := 0
    pfail := 0
    psucc := 0 }

/-- CONSTRUCT's pseudocode (R164), for a state with EN = 0. -/
def constructDecoder (s : State) : State :=
  let (code, fidx) := checkConfig s
  if code ≠ 0 then raiseConfigError s code fidx else newDecoder s

/-- STOP's pseudocode (R165). -/
def stopDecoder (s : State) : State := { s with en := false }

end Sys2Proof.Machine
end

