-- ==== Sys2Proof/Machine/Flags.lean ====
section
/-! DEFINITION. Every computed flag: the core signals ACCUM, FULL, HAVE (10_state.md R55), HIT and
PASS (30_encoding.md R112, 43_validator.md R250), the core selector S (R112), the input handshake
(41_stream_input.md R200), the saturating increment (00_scope.md R8) and the STATUS word
(45_status_counters.md R322). -/

namespace Sys2Proof.Machine

/-- sat_inc(c): c + 1 below 2^32 - 1, else c (R8). -/
def satInc (c : Word) : Word := if c.toNat < 2 ^ 32 - 1 then c + 1 else c

/-- ACCUM = (SV = 1) and (PROGRESS = L_STARTLEN). -/
def accumFlag (s : State) : Bool := s.sv && s.progress == s.schema.startLen.toNat

/-- FULL = ACCUM and (FILL = L_P). -/
def fullFlag (s : State) : Bool := accumFlag s && s.fill == s.schema.payloadLen

/-- HAVE = (PEND > 0). -/
def haveFlag (s : State) : Bool := 0 < s.pend

/-- HIT: seeking, and the byte at HEAD is the next expected start byte. -/
def hitFlag (s : State) : Bool :=
  s.sv && haveFlag s && !accumFlag s && ringRead s 0 == schemaStart s.schema s.progress

/-- The exclusive-or of a list of bytes, from 0x00. -/
def xorBytes (bytes : List Byte) : Byte := bytes.foldl (· ^^^ ·) 0

/-- Value1(e, b): the decoded parity field value (43_validator.md R250). -/
def parityValue (e : BitVec 4) (b : Byte) : Word := if e = 2 then b.signExtend 32 else b.zeroExtend 32

/-- Pass (R250) of the payload bytes that `read` gives by offset. -/
def passBytes (l : Schema) (read : Nat → Byte) : Bool :=
  !l.ppres ||
    parityValue l.penc (read l.poff) == (xorBytes ((List.range l.poff).map read)).zeroExtend 32

/-- PASS: FULL = 1 and Pass(s) (R112). -/
def passFlag (s : State) : Bool := fullFlag s && passBytes s.schema (ringRead s)

/-- The core selector S = EN FULL OUTV HAVE ACCUM HIT PASS, S[6] first (R112). -/
def selector (s : State) : BitVec 7 :=
  BitVec.ofBool s.en ++ BitVec.ofBool (fullFlag s) ++ BitVec.ofBool s.outValid
    ++ BitVec.ofBool (haveFlag s) ++ BitVec.ofBool (accumFlag s) ++ BitVec.ofBool (hitFlag s)
    ++ BitVec.ofBool (passFlag s)

/-- in_ready in a cycle with rst = 0: EN = 1 and FILL + PEND < RC (R200). -/
def readyFlag (s : State) : Bool := s.en && s.fill + s.pend < ringCap s

/-- The STATUS word (R322): PROGRESS in [15:8], then 0, SV, BIG, PPRES, OUT_VALID, FULL, ACCUM, EN. -/
def statusWord (s : State) : Word :=
  0#16 ++ BitVec.ofNat 8 s.progress ++ 0#1 ++ BitVec.ofBool s.sv ++ BitVec.ofBool s.schema.big
    ++ BitVec.ofBool s.schema.ppres ++ BitVec.ofBool s.outValid ++ BitVec.ofBool (fullFlag s)
    ++ BitVec.ofBool (accumFlag s) ++ BitVec.ofBool s.en

/-- The ERR word (40_configuration.md R172). -/
def errWord (s : State) : Word :=
  0#15 ++ BitVec.ofBool s.werr ++ 0#3 ++ s.errFidx ++ 0#4 ++ s.errCode

end Sys2Proof.Machine
end

