-- ==== Sys2Proof/Machine/Configuration.lean ====
section
/-! DEFINITION. The configuration family (40_configuration.md): the meanings of RD_CTRL, WR_CTRL,
CONSTRUCT, STOP, RD_CFG, WR_CFG, RD_START, WR_START, RD_FIELD, WR_FIELD, RD_ERR and WR_ERR. -/

namespace Sys2Proof.Machine

/-- RD_CTRL (R161): rdata <- zext_32(EN). -/
def execRdCtrl (s : State) : Host.Outcome State Fault Refusal :=
  .next (setRdata s ((BitVec.ofBool s.en).zeroExtend 32))

/-- WR_CTRL (R162): construct, stop, or no effect when EN is already as written. -/
def execWrCtrl (wdata : Word) (s : State) : Host.Outcome State Fault Refusal :=
  .next
    (if wdata.getLsbD 0 && !s.en then constructDecoder s
     else if !wdata.getLsbD 0 && s.en then stopDecoder s
     else s)

/-- CONSTRUCT (R164): needs EN = 0, otherwise no effect; wdata[31:1] is ignored. -/
def execConstruct (_hi : BitVec 31) (s : State) : Host.Outcome State Fault Refusal :=
  .next (if s.en then s else constructDecoder s)

/-- STOP (R165): needs EN = 1, otherwise no effect; wdata[31:1] is ignored. -/
def execStop (_hi : BitVec 31) (s : State) : Host.Outcome State Fault Refusal :=
  .next (if s.en then stopDecoder s else s)

/-- RD_CFG (R166). -/
def execRdCfg (s : State) : Host.Outcome State Fault Refusal :=
  .next (setRdata s s.cfg)

/-- WR_CFG (R167). -/
def execWrCfg (wdata : Word) (s : State) : Host.Outcome State Fault Refusal :=
  .next (cfgWrite s { s with cfg := wdata &&& cfgMask })

/-- RD_START (R168); an unimplemented w is RD_UNMAPPED and reads 0. -/
def execRdStart (w : BitVec 4) (s : State) : Host.Outcome State Fault Refusal :=
  .next (setRdata s (if w.toNat < s.params.startWords then startAt s w.toNat else 0))

/-- WR_START (R169); an unimplemented w is WR_UNMAPPED and has no effect. -/
def execWrStart (w : BitVec 4) (wdata : Word) (s : State) : Host.Outcome State Fault Refusal :=
  .next
    (if w.toNat < s.params.startWords then
       cfgWrite s { s with start := s.start.setIfInBounds w.toNat wdata }
     else s)

/-- RD_FIELD (R170); an unimplemented i is RD_UNMAPPED and reads 0. -/
def execRdField (i : BitVec 5) (s : State) : Host.Outcome State Fault Refusal :=
  .next (setRdata s (if i.toNat < s.params.maxFields then fieldAt s i.toNat else 0))

/-- WR_FIELD (R171); an unimplemented i is WR_UNMAPPED and has no effect. -/
def execWrField (i : BitVec 5) (wdata : Word) (s : State) : Host.Outcome State Fault Refusal :=
  .next
    (if i.toNat < s.params.maxFields then
       cfgWrite s { s with field := s.field.setIfInBounds i.toNat (wdata &&& fieldMask) }
     else s)

/-- RD_ERR (R172). -/
def execRdErr (s : State) : Host.Outcome State Fault Refusal :=
  .next (setRdata s (errWord s))

/-- WR_ERR (R174): wdata[16] = 1 clears WERR, in any EN state. -/
def execWrErr (wdata : Word) (s : State) : Host.Outcome State Fault Refusal :=
  .next (if wdata.getLsbD 16 then { s with werr := false } else s)

end Sys2Proof.Machine
end

