-- ==== Sys2Proof/Machine/RecordOutput.lean ====
section
/-! DEFINITION. The record output and field unpacker family (44_record_output.md): the unpacker
(R282) and the meanings of RD_RECRAW, RD_RECELEM, WR_RECCTRL and RD_RECCTRL. -/

namespace Sys2Proof.Machine

/-- The bytes OUT[o], …, OUT[o+n-1]. -/
def outBytes (s : State) (o n : Nat) : List Byte := (List.range n).map (fun m => Memory.read s.out (o + m))

/-- The field that element k belongs to: FELEM[i] <= k < FELEM[i] + L_CNT[i], i < L_NF (R282). -/
def elemField (l : Schema) (k : Nat) : Option Nat :=
  (List.range l.nf.toNat).find? fun i => schemaFelem l i ≤ k && k < schemaFelem l i + schemaCount l i

/-- The value of element e of field i of the record in OUT (R281, R282). -/
def fieldElemValue (s : State) (i e : Nat) : Word :=
  let enc := schemaEnc s.schema i
  let bytes := outBytes s (schemaFoff s.schema i + e * encSize enc) (encSize enc)
  extendElem enc (if s.schema.big then bigEndian bytes else littleEndian bytes)

/-- ElemValue(s, k) (R282). In a schema that a construct latched, every k < L_NELEM has a field; 0
where there is none (log entry 6). -/
def elemValue (s : State) (k : Nat) : Word :=
  match elemField s.schema k with
  | some i => fieldElemValue s i (k - schemaFelem s.schema i)
  | none => 0

/-- A byte lane of REC_RAW: OUT[o] for o < L_P, else 0 (10_state.md R49). -/
def rawByte (s : State) (o : Nat) : Byte := if o < s.schema.payloadLen then Memory.read s.out o else 0

/-- The word of REC_RAW[w], with the byte at the lowest offset in bits [7:0] (R284). -/
def rawWord (s : State) (w : Nat) : Word :=
  rawByte s (4 * w + 3) ++ rawByte s (4 * w + 2) ++ rawByte s (4 * w + 1) ++ rawByte s (4 * w)

/-- RD_RECRAW (R284); an unimplemented w is RD_UNMAPPED and reads 0. -/
def execRdRecraw (w : BitVec 6) (s : State) : Host.Outcome State Fault Refusal :=
  .next
    (setRdata s
      (if w.toNat < s.params.recWords ∧ s.outValid ∧ 4 * w.toNat < s.schema.payloadLen then
         rawWord s w.toNat
       else 0))

/-- RD_RECELEM (R285); an unimplemented k is RD_UNMAPPED and reads 0. -/
def execRdRecelem (k : BitVec 8) (s : State) : Host.Outcome State Fault Refusal :=
  .next
    (setRdata s
      (if k.toNat < s.params.maxPayload ∧ s.outValid ∧ k.toNat < s.schema.nelem then
         elemValue s k.toNat
       else 0))

/-- WR_RECCTRL (R286): wdata[0] = 1 while OUT_VALID = 1 releases the record, whatever EN is. -/
def execWrRecctrl (wdata : Word) (s : State) : Host.Outcome State Fault Refusal :=
  .next (if wdata.getLsbD 0 && s.outValid then { s with outValid := false } else s)

/-- RD_RECCTRL (R287): the register is write-only and reads 0. -/
def execRdRecctrl (s : State) : Host.Outcome State Fault Refusal :=
  .next (setRdata s 0)

end Sys2Proof.Machine
end

