-- ==== Sys2Proof/Machine/Reset.lean ====
section
/-! DEFINITION. The meaning of RESET (70_reset_and_hazards.md R370). -/

namespace Sys2Proof.Machine

/-- ResetState (R371) of the instance of `s`, with the outputs of the reset cycle (R372): in_ready = 0,
rdata = 0, and rec_valid = the pre-state OUT_VALID. What the environment will drive is not FSYNC's
state and stays. -/
def resetState (s : State) : State :=
  { State.resetOf s.params with recValid := s.outValid, env := s.env }

/-- RESET (R370). -/
def execReset (s : State) : Host.Outcome State Fault Refusal :=
  .next (resetState s)

end Sys2Proof.Machine
end

