-- ==== Sys2Proof/Machine/Status.lean ====
section
/-! DEFINITION. The status, identification and counter family (45_status_counters.md): the meanings of
RD_ID, RD_PARAMS, RD_STATUS, RD_LAYOUT, RD_PARITY, RD_FILLPEND, RD_HEADPTR, RD_SEEKS, RD_PFAIL,
RD_PSUCC, WR_RO, RD_UNMAPPED and WR_UNMAPPED. -/

namespace Sys2Proof.Machine

/-- The ID register: "FSY" and layout version 1 (10_state.md R35). -/
def idWord : Word := 0x46535901

/-- RD_ID (R320). -/
def execRdId (s : State) : Host.Outcome State Fault Refusal :=
  .next (setRdata s idWord)

/-- RD_PARAMS (R321): MAX_PAYLOAD in [31:16], MAX_FIELDS in [15:8], MAX_START in [7:0]. -/
def execRdParams (s : State) : Host.Outcome State Fault Refusal :=
  .next
    (setRdata s
      (BitVec.ofNat 16 s.params.maxPayload ++ BitVec.ofNat 8 s.params.maxFields
        ++ BitVec.ofNat 8 s.params.maxStart))

/-- RD_STATUS (R322). -/
def execRdStatus (s : State) : Host.Outcome State Fault Refusal :=
  .next (setRdata s (statusWord s))

/-- RD_LAYOUT (R323): L_NELEM in [31:16], L_P in [15:0]. -/
def execRdLayout (s : State) : Host.Outcome State Fault Refusal :=
  .next (setRdata s (BitVec.ofNat 16 s.schema.nelem ++ BitVec.ofNat 16 s.schema.payloadLen))

/-- RD_PARITY (R324): L_PPRES in bit 16, L_POFF in [15:0]. -/
def execRdParity (s : State) : Host.Outcome State Fault Refusal :=
  .next (setRdata s (0#15 ++ BitVec.ofBool s.schema.ppres ++ BitVec.ofNat 16 s.schema.poff))

/-- RD_FILLPEND (R325): PEND in [31:16], FILL in [15:0]. -/
def execRdFillpend (s : State) : Host.Outcome State Fault Refusal :=
  .next (setRdata s (BitVec.ofNat 16 s.pend ++ BitVec.ofNat 16 s.fill))

/-- RD_HEADPTR (R326): HEAD in [15:0]. -/
def execRdHeadptr (s : State) : Host.Outcome State Fault Refusal :=
  .next (setRdata s (0#16 ++ BitVec.ofNat 16 s.head))

/-- RD_SEEKS (R327). -/
def execRdSeeks (s : State) : Host.Outcome State Fault Refusal :=
  .next (setRdata s s.seeks)

/-- RD_PFAIL (R328). -/
def execRdPfail (s : State) : Host.Outcome State Fault Refusal :=
  .next (setRdata s s.pfail)

/-- RD_PSUCC (R329). -/
def execRdPsucc (s : State) : Host.Outcome State Fault Refusal :=
  .next (setRdata s s.psucc)

/-- WR_RO (R330): a write to a read-only register changes nothing, and sets no WERR. -/
def execWrRo (_r : RoReg) (_wdata : Word) (s : State) : Host.Outcome State Fault Refusal :=
  .next s

/-- RD_UNMAPPED (R331): reads 0. -/
def execRdUnmapped (_a : BitVec 10) (s : State) : Host.Outcome State Fault Refusal :=
  .next (setRdata s 0)

/-- WR_UNMAPPED (R331): no state change. -/
def execWrUnmapped (_a : BitVec 10) (_wdata : Word) (s : State) : Host.Outcome State Fault Refusal :=
  .next s

end Sys2Proof.Machine
end

