-- ==== Sys2Proof/Machine/StreamInput.lean ====
section
/-! DEFINITION. The stream input family (41_stream_input.md): the meaning of PUSH. -/

namespace Sys2Proof.Machine

/-- PushEffect (20_memory.md R91): the byte enters the ring at the tail, PEND + 1. -/
def pushByte (s : State) (b : Byte) : State :=
  { ringWrite s (s.fill + s.pend) b with pend := s.pend + 1 }

/-- PUSH (R201) of an offered byte. It is transferred exactly when the port `in_ready` of this cycle is
1 (R200); when it is 0 the byte is not taken and nothing changes. The port is driven from the
pre-state before the operations of the cycle run (Machine/Cycle.lean). -/
def execPush (b : Byte) (s : State) : Host.Outcome State Fault Refusal :=
  .next (if s.inReady then pushByte s b else s)

end Sys2Proof.Machine
end

