-- ==== Sys2Proof/Machine/Synchronizer.lean ====
section
/-! DEFINITION. The frame synchronizer and start-marker matcher family (42_synchronizer.md): the
meanings of SCAN_SEEK_HIT, SCAN_SEEK_MISS, SCAN_ACCUM and CORE_IDLE. -/

namespace Sys2Proof.Machine

/-- SCAN_SEEK_HIT (R221). -/
def execScanSeekHit (s : State) : Host.Outcome State Fault Refusal :=
  .next { dropHead s with progress := s.progress + 1 }

/-- SCAN_SEEK_MISS (R222): the byte is consumed, not retested. -/
def execScanSeekMiss (s : State) : Host.Outcome State Fault Refusal :=
  .next { dropHead s with progress := 0, seeks := satInc s.seeks }

/-- SCAN_ACCUM (R223): the byte stays in the ring at payload offset FILL. -/
def execScanAccum (s : State) : Host.Outcome State Fault Refusal :=
  .next { s with fill := s.fill + 1, pend := s.pend - 1 }

/-- CORE_IDLE (R224), of either row: no state change. -/
def execCoreIdle (_row : IdleRow) (s : State) : Host.Outcome State Fault Refusal :=
  .next s

end Sys2Proof.Machine
end

