-- ==== Sys2Proof/Machine/Validator.lean ====
section
/-! DEFINITION. The XOR parity validator and resynchronization family (43_validator.md): the meanings
of VALIDATE_ACCEPT, VALIDATE_REJECT and CORE_STALL. The check itself is `passBytes` (R250) in
Machine/Flags.lean. -/

namespace Sys2Proof.Machine

/-- OUT[k] <- RingRead(k) for k < n. -/
def copyPayload (s : State) (n : Nat) : Memory :=
  (List.range n).foldl (fun m k => Memory.write m k (ringRead s k)) s.out

/-- VALIDATE_ACCEPT (R251): the payload becomes the record in OUT, and its ring slots are free; PSUCC
counts only where a parity field exists. -/
def execValidateAccept (s : State) : Host.Outcome State Fault Refusal :=
  .next
    { s with
      out := copyPayload s s.schema.payloadLen
      outValid := true
      head := ringIndex s s.schema.payloadLen
      fill := 0
      progress := 0
      psucc := if s.schema.ppres then satInc s.psucc else s.psucc }

/-- VALIDATE_REJECT (R252): the window slides by one byte; payload bytes 1 .. L_P-1 are pending again,
ahead of the older pending bytes. -/
def execValidateReject (s : State) : Host.Outcome State Fault Refusal :=
  .next
    { s with
      head := ringIndex s 1
      pend := s.pend + s.schema.payloadLen - 1
      fill := 0
      progress := 0
      pfail := satInc s.pfail }

/-- CORE_STALL (R253): a passing payload waits for OUT; no state change. -/
def execCoreStall (s : State) : Host.Outcome State Fault Refusal :=
  .next s

end Sys2Proof.Machine
end

