-- ==== Sys2Proof/Machine/Dispatch.lean ====
section
/-! DEFINITION. The dispatch of an operation to its meaning: one arm per constructor of Instr, in the
order of spec/opcode_table.json. -/

namespace Sys2Proof.Machine

def exec (i : Instr) (s : State) : Host.Outcome State Fault Refusal :=
  match i with
  | .rdId => Sys2Proof.Machine.execRdId s
  | .rdParams => Sys2Proof.Machine.execRdParams s
  | .rdCtrl => Sys2Proof.Machine.execRdCtrl s
  | .rdCfg => Sys2Proof.Machine.execRdCfg s
  | .rdStatus => Sys2Proof.Machine.execRdStatus s
  | .rdErr => Sys2Proof.Machine.execRdErr s
  | .rdLayout => Sys2Proof.Machine.execRdLayout s
  | .rdParity => Sys2Proof.Machine.execRdParity s
  | .rdFillpend => Sys2Proof.Machine.execRdFillpend s
  | .rdSeeks => Sys2Proof.Machine.execRdSeeks s
  | .rdPfail => Sys2Proof.Machine.execRdPfail s
  | .rdPsucc => Sys2Proof.Machine.execRdPsucc s
  | .rdRecctrl => Sys2Proof.Machine.execRdRecctrl s
  | .rdHeadptr => Sys2Proof.Machine.execRdHeadptr s
  | .wrRo r wdata => Sys2Proof.Machine.execWrRo r wdata s
  | .wrCtrl wdata => Sys2Proof.Machine.execWrCtrl wdata s
  | .construct hi => Sys2Proof.Machine.execConstruct hi s
  | .stop hi => Sys2Proof.Machine.execStop hi s
  | .wrCfg wdata => Sys2Proof.Machine.execWrCfg wdata s
  | .wrErr wdata => Sys2Proof.Machine.execWrErr wdata s
  | .wrRecctrl wdata => Sys2Proof.Machine.execWrRecctrl wdata s
  | .rdStart w => Sys2Proof.Machine.execRdStart w s
  | .wrStart w wdata => Sys2Proof.Machine.execWrStart w wdata s
  | .rdField j => Sys2Proof.Machine.execRdField j s
  | .wrField j wdata => Sys2Proof.Machine.execWrField j wdata s
  | .rdRecraw w => Sys2Proof.Machine.execRdRecraw w s
  | .rdRecelem k => Sys2Proof.Machine.execRdRecelem k s
  | .rdUnmapped a => Sys2Proof.Machine.execRdUnmapped a s
  | .wrUnmapped a wdata => Sys2Proof.Machine.execWrUnmapped a wdata s
  | .push b => Sys2Proof.Machine.execPush b s
  | .coreIdle row => Sys2Proof.Machine.execCoreIdle row s
  | .validateAccept => Sys2Proof.Machine.execValidateAccept s
  | .coreStall => Sys2Proof.Machine.execCoreStall s
  | .validateReject => Sys2Proof.Machine.execValidateReject s
  | .scanAccum => Sys2Proof.Machine.execScanAccum s
  | .scanSeekHit => Sys2Proof.Machine.execScanSeekHit s
  | .scanSeekMiss => Sys2Proof.Machine.execScanSeekMiss s
  | .reset => Sys2Proof.Machine.execReset s

end Sys2Proof.Machine
end

