-- ==== Sys2Proof/Machine/Cycle.lean ====
section
/-! DEFINITION. The pieces of one cycle (20_memory.md R85): the inputs it takes, the output ports it
drives from the pre-state, the operations it performs, and how they run; and the placing of a word for
the next cycle. Machine/Step.lean puts them together.

A cycle's operations are its bus access, its core action and its push. All three are chosen from the
pre-state. They run in this order: a read sees the pre-state, every condition a write tests is the
pre-state's, and the byte is pushed at the tail the core action leaves. Since the three never assign
the same element (R85), this is R85's composition; Certificates/Slice0/Obligations.lean states so
against `Reference.cycle`, which writes R85 out. -/

namespace Sys2Proof.Machine

/-! ### Inputs and outputs of the cycle -/

/-- The inputs of the next cycle. -/
def nextInput (s : State) : CycleIn :=
  match s.env with
  | [] => .idle
  | c :: _ => c

/-- The state once those inputs are taken. -/
def takeInput (s : State) : State := { s with env := s.env.tail }

/-- The output ports of a cycle with rst = 0, from the pre-state: in_ready (41_stream_input.md R200),
rec_valid (44_record_output.md R288), and bus_rdata 0 until a read drives it (10_state.md R32). -/
def drivePorts (s : State) : State :=
  { s with inReady := readyFlag s, recValid := s.outValid, rdata := 0 }

/-! ### The operations of the cycle -/

/-- A write to CTRL in the pre-state `s`: CONSTRUCT or STOP where the state gives it that effect, and
WR_CTRL where it has none (40_configuration.md R162). Every other operation is itself. -/
def resolveCtrl (s : State) (i : Instr) : Instr :=
  match i with
  | .wrCtrl d =>
    if d.getLsbD 0 && !s.en then .construct (d.extractLsb' 1 31)
    else if !d.getLsbD 0 && s.en then .stop (d.extractLsb' 1 31)
    else .wrCtrl d
  | i => i

/-- The bus access of the cycle: bus_req 01 a read, 10 a write, 00 and 11 none (10_state.md R32). -/
def busOp (c : CycleIn) (s : State) : List Instr :=
  match c.busReq.toNat with
  | 1 => [decodeBus s.params false c.busAddr 0]
  | 2 => [resolveCtrl s (decodeBus s.params true c.busAddr c.busWdata)]
  | _ => []

/-- The core action of the cycle, which the selector of the pre-state names (42_synchronizer.md R220). -/
def coreOp (s : State) : Instr := decodeCore (selector s)

/-- The push of the cycle: a byte is offered when in_valid = 1; whether it is transferred, in_ready
decides (41_stream_input.md R200, R201). -/
def pushOp (c : CycleIn) : List Instr := if c.inValid then [.push c.inData] else []

/-- All operations of a cycle with rst = 0, in the order they run. -/
def cycleOps (c : CycleIn) (s : State) : List Instr := busOp c s ++ coreOp s :: pushOp c

/-- Runs operations one after the other, stopping where one stops. -/
def runOps (ops : List Instr) (s : State) : Host.Outcome State Fault Refusal :=
  match ops with
  | [] => .next s
  | i :: rest =>
    match exec i s with
    | .next t => runOps rest t
    | .fault r => .fault r
    | .refused r => .refused r

/-! ### Placing a word for the next cycle

A transaction word stands for a bus access or a push, which the environment performs, or for a core
action, which the state itself selects. Placing a bus word puts one cycle with that access before the
inputs to come; placing a push does so with that byte, in a decoder that takes it; placing a core word
brings the core into a state that selects the action (log entry 7). -/

/-- A one-byte schema without start bytes: one RAW8 field, which is a parity field if `parity`. -/
def oneByteSchema (parity : Bool) : Schema :=
  deriveSchema
    { Schema.zero with
      nf := 1
      par := table 32 fun i => parity && i == 0
      cnt := table 32 fun i => if i = 0 then 1 else 0 }

/-- The one-byte schema with the start byte 0x02. -/
def oneStartSchema : Schema :=
  { oneByteSchema false with
    startLen := 1
    start := table 64 fun j => if j = 0 then 0x02 else 0 }

/-- `s` as a running decoder of the schema `l` with `fill` accumulated and `pend` pending bytes, the
first of which is `b`. -/
def running (s : State) (l : Schema) (fill pend : Nat) (b : Byte) : State :=
  { ringWrite s 0 b with en := true, sv := true, schema := l, progress := 0, fill := fill, pend := pend }

/-- `s` arranged so that its core action is `i`. -/
def arrangeCore (s : State) (i : Instr) : State :=
  if coreOp s = i then s
  else
    match i with
    | .coreIdle .disabled => { s with en := false }
    | .scanSeekHit => running s oneStartSchema 0 1 0x02
    | .scanSeekMiss => running s oneStartSchema 0 1 0x13
    | .scanAccum => running s (oneByteSchema false) 0 1 0
    | .validateAccept => { running s (oneByteSchema false) 1 0 0 with outValid := false }
    | .coreStall => { running s (oneByteSchema false) 1 0 0 with outValid := true }
    | .validateReject => running s (oneByteSchema true) 1 0 0x01
    | _ => running s (oneByteSchema false) 0 0 0

/-- `s` arranged so that it takes an offered byte: as it is when in_ready is 1 in it, else a running
decoder with an empty ring. -/
def arrangePush (s : State) : State := if readyFlag s then s else running s (oneByteSchema false) 0 0 0

/-- The inputs of a cycle in which the environment performs the operation of `tw`. -/
def wordInput (tw : BitVec 46) : CycleIn :=
  match (twChannel tw).toNat with
  | 0 => .idle
  | 1 => { CycleIn.idle with busReq := 1, busAddr := twAddr tw }
  | 2 => { CycleIn.idle with busReq := 2, busAddr := twAddr tw, busWdata := twData tw }
  | _ => { CycleIn.idle with inValid := true, inData := (twData tw).extractLsb' 0 8 }

/-- `s` arranged for the operation of `tw`. -/
def arrange (s : State) (tw : BitVec 46) : State :=
  match (twChannel tw).toNat with
  | 0 => arrangeCore s (decodeCore ((twData tw).extractLsb' 0 7))
  | 1 => s
  | 2 => s
  | _ => arrangePush s

/-- `s` with the operation of `tw` placed for the next cycle; unchanged where `tw` is no operation. -/
def placeWord (s : State) (tw : BitVec 46) : State :=
  match decodeTW s.params tw with
  | .error _ => s
  | .ok _ => let t := arrange s tw; { t with env := wordInput tw :: t.env }

end Sys2Proof.Machine
end

