-- ==== Sys2Proof/Machine/Step.lean ====
section
/-! DEFINITION. One step of the machine: one clock cycle (00_scope.md R11, 20_memory.md R85). -/

namespace Sys2Proof.Machine

/-- One cycle. With rst = 1 the cycle is a RESET and every other input is ignored (60_exceptions.md
R346); otherwise its operations run on the pre-state with the output ports driven. -/
def step (s : State) : Host.Outcome State Fault Refusal :=
  let c := nextInput s
  let pre := takeInput s
  if c.rst then exec .reset pre else runOps (cycleOps c pre) (drivePorts pre)

/-- `s` with the operation whose transaction word is the `nbits` low bits of `w` placed where the next
step performs it; unchanged where `w` is no word of six bytes with bits 47..46 zero. -/
def State.withFetchWord (s : State) (nbits w : Nat) : State :=
  let v := w % 2 ^ nbits
  if v < 2 ^ 46 then placeWord s (.ofNat 46 v) else s

end Sys2Proof.Machine
end

