-- ==== Sys2Proof/Machine/Reference.lean ====
section
/-! DEFINITION. The spec's own descriptions that statements compare the machine with: the core action by
42_synchronizer.md R220, the cycle composition of 20_memory.md R85, and the reference stream semantics
Feed of 42_synchronizer.md R226. The machine does not use them. -/

namespace Sys2Proof.Machine

/-! ### The cycle of R85 -/

/-- CoreAction(s) as R220 writes it. -/
def Reference.coreAction (s : State) : Instr :=
  if s.en = false then .coreIdle .disabled
  else if fullFlag s then
    if passBytes s.schema (ringRead s) && !s.outValid then .validateAccept
    else if passBytes s.schema (ringRead s) then .coreStall
    else .validateReject
  else if s.pend = 0 then .coreIdle .nothingPending
  else if accumFlag s then .scanAccum
  else if ringRead s 0 = schemaStart s.schema s.progress then .scanSeekHit
  else .scanSeekMiss

/-- ReadValue(s, a): the register map of 10_state.md R33, by the rule of each register. -/
def Reference.readValue (s : State) (addr : BitVec 12) : Word :=
  match locate s.params (addr.toNat / 4) with
  | .id => 0x46535901
  | .params =>
    .ofNat 32 (s.params.maxPayload % 65536 * 65536 + s.params.maxFields % 256 * 256 + s.params.maxStart % 256)
  | .ctrl => if s.en then 1 else 0
  | .cfg => s.cfg
  | .status => statusWord s
  | .err => errWord s
  | .layout => .ofNat 32 (s.schema.nelem % 65536 * 65536 + s.schema.payloadLen % 65536)
  | .parity => .ofNat 32 ((if s.schema.ppres then 65536 else 0) + s.schema.poff % 65536)
  | .fillpend => .ofNat 32 (s.pend % 65536 * 65536 + s.fill % 65536)
  | .seeks => s.seeks
  | .pfail => s.pfail
  | .psucc => s.psucc
  | .recctrl => 0
  | .headptr => .ofNat 32 (s.head % 65536)
  | .start w => startAt s w.toNat
  | .field i => fieldAt s i.toNat
  | .recRaw w => if s.outValid ∧ 4 * w.toNat < s.schema.payloadLen then rawWord s w.toNat else 0
  | .recElem k => if s.outValid ∧ k.toNat < s.schema.nelem then elemValue s k.toNat else 0
  | .unmapped _ => 0

/-- CoreEffect(a, s). -/
def Reference.coreEffect (i : Instr) (s : State) : State :=
  match exec i s with
  | .next t => t
  | .fault _ => s
  | .refused _ => s

/-- The assignments of a configuration write on top of `s2`, with the condition from `s` (R173). -/
def Reference.cfgWriteEffect (s s2 written : State) : State :=
  if s.en then { s2 with werr := true } else written

/-- The assignments of CONSTRUCT on top of `s2`, computed from `s` (R164). -/
def Reference.constructEffect (s s2 : State) : State :=
  if (checkConfig s).1 ≠ 0 then
    { s2 with errCode := (checkConfig s).1, errFidx := (checkConfig s).2 }
  else
    { s2 with
      schema := latchSchema s, sv := true, en := true, errCode := 0, errFidx := 0,
      progress := 0, head := 0, fill := 0, pend := 0, outValid := false,
      seeks := 0, pfail := 0, psucc := 0 }

/-- WriteEffect(s, s2, a, d): "takes every condition it tests from the pre-state s, and applies its
assignments on top of s2" (R85). -/
def Reference.writeEffect (s s2 : State) (addr : BitVec 12) (d : Word) : State :=
  match locate s.params (addr.toNat / 4) with
  | .ctrl =>
    if d.getLsbD 0 = true ∧ s.en = false then Reference.constructEffect s s2
    else if d.getLsbD 0 = false ∧ s.en = true then { s2 with en := false }
    else s2
  | .cfg => Reference.cfgWriteEffect s s2 { s2 with cfg := d &&& cfgMask }
  | .start w => Reference.cfgWriteEffect s s2 { s2 with start := s2.start.setIfInBounds w.toNat d }
  | .field i =>
    Reference.cfgWriteEffect s s2 { s2 with field := s2.field.setIfInBounds i.toNat (d &&& fieldMask) }
  | .err => if d.getLsbD 16 then { s2 with werr := false } else s2
  | .recctrl => if d.getLsbD 0 = true ∧ s.outValid = true then { s2 with outValid := false } else s2
  | .id | .params | .status | .layout | .parity | .fillpend | .seeks | .pfail | .psucc | .headptr
  | .recRaw _ | .recElem _ | .unmapped _ => s2

/-- One cycle as R85 composes it: the core effect on the pre-state, the push on top of it, the write on
top of both, and the outputs from the pre-state. -/
def Reference.cycle (s : State) : State :=
  let c := nextInput s
  let pre := takeInput s
  if c.rst then resetState pre
  else
    let ready := pre.en && pre.fill + pre.pend < ringCap pre
    let s1 := Reference.coreEffect (Reference.coreAction pre) pre
    let s2 := if c.inValid && ready then pushByte s1 c.inData else s1
    let s3 := if c.busReq = 2 then Reference.writeEffect pre s2 c.busAddr c.busWdata else s2
    { s3 with
      inReady := ready
      recValid := pre.outValid
      rdata := if c.busReq = 1 then Reference.readValue pre c.busAddr else 0 }

/-! ### The reference stream semantics of R226 -/

/-- Feed's state σ. -/
structure FeedState where
  prog : Nat
  buf : List Byte
  seeks : Word
  pfail : Word
  psucc : Word
  recs : List (List Byte)
  deriving DecidableEq, Repr

/-- Feed's Validating step for a full payload `w` with the stream `rest` after it. -/
def Reference.feedValidate (l : Schema) (f : FeedState) (w rest : List Byte) : FeedState × List Byte :=
  if passBytes l (fun k => w.getD k 0) then
    ({ f with
       prog := 0
       buf := []
       recs := f.recs ++ [w]
       psucc := if l.ppres then satInc f.psucc else f.psucc }, rest)
  else ({ f with prog := 0, buf := [], pfail := satInc f.pfail }, w.drop 1 ++ rest)

/-- One unfolding of Feed: the equation of R226 for the first byte of the stream. -/
def Reference.feedStep (l : Schema) (f : FeedState × List Byte) : FeedState × List Byte :=
  match f with
  | (f, []) => (f, [])
  | (f, b :: rest) =>
    if f.prog < l.startLen.toNat then
      if b = schemaStart l f.prog then ({ f with prog := f.prog + 1 }, rest)
      else ({ f with prog := 0, seeks := satInc f.seeks }, rest)
    else if (f.buf ++ [b]).length < l.payloadLen then ({ f with buf := f.buf ++ [b] }, rest)
    else Reference.feedValidate l f (f.buf ++ [b]) rest

/-- Feed unfolded `n` times. -/
def Reference.feed (l : Schema) (n : Nat) (f : FeedState × List Byte) : FeedState × List Byte :=
  match n with
  | 0 => f
  | n + 1 => Reference.feed l n (Reference.feedStep l f)

/-- The pair (σ, stream) that a state stands for (42_synchronizer.md R227), where `recs` are the records
accepted so far: the partial payload and the pending bytes; in a state with FULL = 1, what Feed's
validation step makes of the full payload. -/
def Reference.streamView (recs : List (List Byte)) (s : State) : FeedState × List Byte :=
  let f : FeedState :=
    { prog := s.progress, buf := ringPrefix s s.fill, seeks := s.seeks, pfail := s.pfail,
      psucc := s.psucc, recs := recs }
  if fullFlag s then Reference.feedValidate s.schema f (ringPrefix s s.fill) (ringPending s)
  else (f, ringPending s)

/-- The records accepted after the core action of `s`: VALIDATE_ACCEPT appends its payload. -/
def Reference.recordsAfter (recs : List (List Byte)) (s : State) : List (List Byte) :=
  if coreOp s = .validateAccept then recs ++ [ringPrefix s s.schema.payloadLen] else recs

end Sys2Proof.Machine
end

