-- ==== Sys2Proof/Safety.lean ====
section
/-! DEFINITION. What holds in every reachable state: the invariants of 10_state.md R57, the widths and
reserved bits of R33, R38, R40, R48 and R54, the latched schema's legality (R52), and the canonical
form of the byte stores. -/

namespace Sys2Proof.Machine

/-- The occupancy invariants of R57 (1) to (7), and HEAD within the ring (R54). R57 (8) is a fact about
core actions, not about a state. -/
abbrev Occupancy (s : State) : Prop :=
  s.fill + s.pend ≤ ringCap s ∧
  s.fill ≤ s.schema.payloadLen ∧
  s.progress ≤ s.schema.startLen.toNat ∧
  (s.progress < s.schema.startLen.toNat → s.fill = 0) ∧
  (fullFlag s = true → s.pend ≤ ringCap s - s.schema.payloadLen) ∧
  (s.en = true → s.sv = true) ∧
  (s.sv = false → s.fill = 0 ∧ s.pend = 0 ∧ s.progress = 0) ∧
  s.head < ringCap s

/-- A schema that Check passes (40_configuration.md R163), with the derived quantities of R52. -/
abbrev LegalSchema (p : Params) (l : Schema) : Prop :=
  1 ≤ l.nf.toNat ∧ l.nf.toNat ≤ p.maxFields ∧
  l.startLen.toNat ≤ p.maxStart ∧
  (∀ i < l.nf.toNat, (schemaEnc l i).toNat < 8 ∧ 1 ≤ schemaCount l i) ∧
  l = deriveSchema l ∧
  1 ≤ l.payloadLen ∧ l.payloadLen ≤ p.maxPayload ∧
  1 ≤ l.nelem ∧ l.nelem ≤ l.payloadLen ∧
  (l.ppres = true → l.poff < l.payloadLen ∧ l.penc.toNat < 3)

/-- The latched schema: all 0 until a construct has succeeded (R51), legal from then on. -/
abbrev SchemaLatched (s : State) : Prop :=
  if s.sv then LegalSchema s.params s.schema else s.schema = Schema.zero ∧ s.outValid = false

/-- Reserved bits read 0 (R33, R38, R48), unimplemented window entries hold 0 (R34), and ERR holds a
code of 60_exceptions.md R341 with an index only where the code has one. -/
abbrev RegistersLegal (s : State) : Prop :=
  s.cfg = s.cfg &&& cfgMask ∧
  (∀ i < 32, fieldAt s i = fieldAt s i &&& fieldMask) ∧
  (∀ w < 16, s.params.startWords ≤ w → startAt s w = 0) ∧
  (∀ i < 32, s.params.maxFields ≤ i → fieldAt s i = 0) ∧
  s.errCode.toNat ≤ 8 ∧
  (s.errFidx ≠ 0 → 3 ≤ s.errCode.toNat ∧ s.errCode.toNat ≤ 7)

/-- The byte stores are in canonical form and hold no index past their size (20_memory.md R80). -/
abbrev StoresCanonical (s : State) : Prop :=
  Memory.wf s.ring = true ∧ Memory.wf s.out = true ∧
  Memory.within s.ring s.params.maxPayload = true ∧ Memory.within s.out s.params.maxPayload = true

/-- The invariant of the machine. -/
abbrev Inv (s : State) : Prop :=
  s.params.Valid ∧ Occupancy s ∧ SchemaLatched s ∧ RegistersLegal s ∧ StoresCanonical s

end Sys2Proof.Machine
end

