-- ==== Sys2Proof/Certificates/Slice0/Obligations.lean ====
section
/-! DEFINITION. The statements about FSYNC for the provers. Each docstring names the rule of spec/ it
formalises; OBLIGATIONS.json lists them. -/

open Sys2Proof Sys2Proof.Machine

namespace Sys2Proof.Machine

/-! ### Words the statements share -/

/-- A read of the word address `n`, at any of its four byte addresses, is the operation `i`. -/
abbrev ReadsAt (n : Nat) (i : Instr) : Prop :=
  ∀ (p : Params) (a : BitVec 12) (d : Word), a.toNat / 4 = n → decodeTW p (makeWord 1 a d) = .ok i

/-- A write to the word address `n`, at any of its four byte addresses, is the operation `i d`. -/
abbrev WritesAt (n : Nat) (i : Word → Instr) : Prop :=
  ∀ (p : Params) (a : BitVec 12) (d : Word), a.toNat / 4 = n → decodeTW p (makeWord 2 a d) = .ok (i d)

/-- In an instance, a read at any byte address of the first `count` entries of the window from `base` on
is the operation of its entry. -/
abbrev ReadsIn (base : Nat) (count : Params → Nat) (i : Nat → Instr) : Prop :=
  ∀ (p : Params) (a : BitVec 12) (d : Word), p.Valid → base ≤ a.toNat → a.toNat < base + 4 * count p →
    decodeTW p (makeWord 1 a d) = .ok (i ((a.toNat - base) / 4))

/-- In an instance, a write at any byte address of the first `count` entries of the window from `base`
on is the operation of its entry. -/
abbrev WritesIn (base : Nat) (count : Params → Nat) (i : Nat → Word → Instr) : Prop :=
  ∀ (p : Params) (a : BitVec 12) (d : Word), p.Valid → base ≤ a.toNat → a.toNat < base + 4 * count p →
    decodeTW p (makeWord 2 a d) = .ok (i ((a.toNat - base) / 4) d)

/-- The core word with the selector `sel` is the operation `i` exactly when `sel` matches `pattern` under
`mask`. -/
abbrev SelectedBy (mask pattern : BitVec 7) (i : Instr) : Prop :=
  ∀ (p : Params) (sel : BitVec 7), decodeTW p (coreWord sel) = .ok i ↔ sel &&& mask = pattern

/-- The word address `n` is that of a configuration register: CFG, an implemented START[w] or an
implemented FIELD[i]. -/
abbrev isCfgWord (p : Params) (n : Nat) : Prop :=
  n = 3 ∨ (16 ≤ n ∧ n < 16 + (p.maxStart + 3) / 4) ∨ (32 ≤ n ∧ n < 32 + p.maxFields)

/-- The cycle to come writes a value with `bit` = bit 0 to the word address `n`. -/
abbrev writesWord (s : State) (n : Nat) (bit : Bool) : Prop :=
  (nextInput s).busReq = 2 ∧ (nextInput s).busAddr.toNat / 4 = n ∧ (nextInput s).busWdata.getLsbD 0 = bit

/-- The cycle to come is a successful construct. -/
abbrev constructsNext (s : State) : Prop :=
  writesWord s 2 true ∧ s.en = false ∧ (checkConfig s).1 = 0

/-- CFG.START_LEN is at most MAX_START, and CFG.NFIELDS lies in 1 .. MAX_FIELDS (R163, codes 1 and 2
absent). -/
abbrev sizesLegal (s : State) : Prop :=
  (cfgStartLen s.cfg).toNat ≤ s.params.maxStart ∧ 1 ≤ (cfgNfields s.cfg).toNat ∧
  (cfgNfields s.cfg).toNat ≤ s.params.maxFields

/-- Every listed field has a known encoding (code 3 absent). -/
abbrev typesKnown (s : State) : Prop :=
  ∀ i < (cfgNfields s.cfg).toNat, (fieldEnc (fieldAt s i)).toNat < 8

/-- Every listed field has a count of at least 1 (code 4 absent). -/
abbrev countsPositive (s : State) : Prop :=
  ∀ i < (cfgNfields s.cfg).toNat, fieldCount (fieldAt s i) ≠ 0

/-- Field `q` is the one listed field marked PAR. -/
abbrev onlyParity (s : State) (q : Nat) : Prop :=
  q < (cfgNfields s.cfg).toNat ∧ fieldPar (fieldAt s q) = true ∧
  ∀ i < (cfgNfields s.cfg).toNat, fieldPar (fieldAt s i) = true → i = q

/-- No listed field is marked PAR, or one is and it has one element of one byte (codes 5, 6 and 7
absent). -/
abbrev parityLegal (s : State) : Prop :=
  ∀ i < (cfgNfields s.cfg).toNat, fieldPar (fieldAt s i) = true →
    onlyParity s i ∧ fieldCount (fieldAt s i) = 1 ∧ encSize (fieldEnc (fieldAt s i)) = 1

/-- The byte at offset `o` of the record in OUT. -/
abbrev outByte (s : State) (o : Nat) : Byte := Memory.read s.out o

/-- The two bytes from offset `o` of the record in the latched byte order: big-endian puts the byte at
the lowest offset in the most significant place (R282). -/
abbrev wireWord16 (s : State) (o : Nat) : BitVec 16 :=
  if s.schema.big then outByte s o ++ outByte s (o + 1) else outByte s (o + 1) ++ outByte s o

/-- The four bytes from offset `o` of the record in the latched byte order. -/
abbrev wireWord32 (s : State) (o : Nat) : Word :=
  if s.schema.big then outByte s o ++ outByte s (o + 1) ++ outByte s (o + 2) ++ outByte s (o + 3)
  else outByte s (o + 3) ++ outByte s (o + 2) ++ outByte s (o + 1) ++ outByte s o

/-- The core action scans a byte. -/
abbrev scans (i : Instr) : Prop := i = .scanSeekHit ∨ i = .scanSeekMiss ∨ i = .scanAccum

/-- The bytes transferred in the cycle to come: the offered byte when in_valid = 1 and in_ready = 1. -/
abbrev transferred (s : State) : List Byte :=
  if (nextInput s).inValid = true ∧ s.en = true ∧ s.fill + s.pend < s.params.maxPayload then
    [(nextInput s).inData]
  else []

end Sys2Proof.Machine

/-! ### Encoding -/

/-- Words written out in 95_test_vectors.md (programs P1 to P4, V-VAL) and the table rows of R111 and
R112 decode to the operation they stand for. -/
def Obligations.SpecWordsDecodeAsWritten : Prop :=
  decodeTW .default 0x200C00040100 = .ok (.wrCfg 0x00040100) ∧
  decodeTW .default 0x204000000002 = .ok (.wrStart 0 0x02) ∧
  decodeTW .default 0x208C00000180 = .ok (.wrField 3 0x0180) ∧
  decodeTW .default 0x200800000001 = .ok (.wrCtrl 1) ∧
  decodeTW .default 0x101400000000 = .ok .rdErr ∧
  decodeTW .default 0x101000000000 = .ok .rdStatus ∧
  decodeTW .default 0x300000000078 = .ok (.push 0x78) ∧
  decodeTW .default 0x141400000000 = .ok (.rdRecelem 5) ∧
  decodeTW .default 0x203000000001 = .ok (.wrRecctrl 1) ∧
  decodeTW .default 0x103400000000 = .ok .rdHeadptr ∧
  decodeTW .default 0x104800000000 = .ok (.rdUnmapped 0x12) ∧
  decodeTW .default 0x00000000004A = .ok .scanSeekHit ∧
  decodeTW .default 0x00000000005C = .ok .scanAccum ∧
  decodeTW .default 0x00000000006D = .ok .validateAccept ∧
  decodeTW .default 0x000000000064 = .ok .validateReject ∧
  decodeTW .default 0x000000000075 = .ok .coreStall

/-- Decode and encode agree: the word of every well-formed operation of every instance decodes to that
operation, every operand at every value; CONSTRUCT and STOP, whose encoding is WR_CTRL's (R164,
R165), to the WR_CTRL they are effects of. Only RESET has no word (R370). -/
def Obligations.DecodeOfEncodeIsTheOperation : Prop :=
  (∀ (p : Params) (i : Instr) (tw : BitVec 46),
    wellFormed p i = true → encode i = some tw → decodeTW p tw = .ok i.asDecoded) ∧
  (∀ i : Instr, encode i = none ↔ i = .reset)

/-- The decoder names only well-formed operations, and refuses exactly the core words with ADDR or
DATA[31:7] not zero and the push words with ADDR or DATA[31:8] not zero, which R110 writes as 0. R110
writes the DATA of a read word as 0 too; that a read word is decoded whatever its DATA is, is the model's
choice (log entry 8, DESIGN CHOICE). -/
def Obligations.DecodedOperationsAreWellFormed : Prop :=
  (∀ (p : Params) (tw : BitVec 46) (i : Instr),
    decodeTW p tw = .ok i → wellFormed p i = true ∧ i.asDecoded = i) ∧
  (∀ (p : Params) (tw : BitVec 46),
    (∃ e, decodeTW p tw = .error e) ↔
      (twChannel tw = 0 ∧ ¬(twAddr tw = 0 ∧ (twData tw).toNat < 128)) ∨
      (twChannel tw = 3 ∧ ¬(twAddr tw = 0 ∧ (twData tw).toNat < 256)))

/-- R112: the selector's bits are the named signals, each pattern of the decode table names its action,
and the patterns cover all 128 selectors and are disjoint. -/
def Obligations.SelectorNamesTheCoreAction : Prop :=
  (∀ s : State,
    (selector s).getLsbD 6 = s.en ∧ (selector s).getLsbD 5 = fullFlag s ∧
    (selector s).getLsbD 4 = s.outValid ∧ (selector s).getLsbD 3 = decide (0 < s.pend) ∧
    (selector s).getLsbD 2 = accumFlag s ∧
    (selector s).getLsbD 1 =
      (s.sv && decide (0 < s.pend) && !accumFlag s && ringRead s 0 == schemaStart s.schema s.progress) ∧
    (selector s).getLsbD 0 = (fullFlag s && passBytes s.schema (ringRead s))) ∧
  (∀ sel : BitVec 7,
    (sel &&& 0x40 = 0x00 → decodeCore sel = .coreIdle .disabled) ∧
    (sel &&& 0x71 = 0x61 → decodeCore sel = .validateAccept) ∧
    (sel &&& 0x71 = 0x71 → decodeCore sel = .coreStall) ∧
    (sel &&& 0x61 = 0x60 → decodeCore sel = .validateReject) ∧
    (sel &&& 0x68 = 0x40 → decodeCore sel = .coreIdle .nothingPending) ∧
    (sel &&& 0x6C = 0x4C → decodeCore sel = .scanAccum) ∧
    (sel &&& 0x6E = 0x4A → decodeCore sel = .scanSeekHit) ∧
    (sel &&& 0x6E = 0x48 → decodeCore sel = .scanSeekMiss)) ∧
  (∀ sel : BitVec 7, (coreTable.filter (·.hits sel)).length = 1)

/-- R82: FSYNC ignores the address bits [1:0], so an access at address a is the access at a & 0xFFC; no
access faults. -/
def Obligations.BusDecodeIgnoresLowAddressBits : Prop :=
  ∀ (p : Params) (write : Bool) (a : BitVec 12) (d : Word),
    decodeBus p write (a &&& 0xFFC) d = decodeBus p write a d ∧
    ∀ s : State, ∃ t, exec (decodeBus p write a d) s = .next t

/-- R34: an implemented entry of a window is that window's operation; an unimplemented one, and every
unmapped offset, reads 0 and ignores writes. -/
def Obligations.UnimplementedEntriesAreUnmapped : Prop :=
  (∀ (p : Params) (a : BitVec 12) (d : Word),
    (0x040 ≤ a.toNat → a.toNat ≤ 0x07F →
      decodeBus p false a d =
        (if (a.toNat - 0x040) / 4 < (p.maxStart + 3) / 4 then .rdStart (.ofNat 4 ((a.toNat - 0x040) / 4))
         else .rdUnmapped (.ofNat 10 (a.toNat / 4))) ∧
      decodeBus p true a d =
        (if (a.toNat - 0x040) / 4 < (p.maxStart + 3) / 4 then .wrStart (.ofNat 4 ((a.toNat - 0x040) / 4)) d
         else .wrUnmapped (.ofNat 10 (a.toNat / 4)) d)) ∧
    (0x080 ≤ a.toNat → a.toNat ≤ 0x0FF →
      decodeBus p false a d =
        (if (a.toNat - 0x080) / 4 < p.maxFields then .rdField (.ofNat 5 ((a.toNat - 0x080) / 4))
         else .rdUnmapped (.ofNat 10 (a.toNat / 4))) ∧
      decodeBus p true a d =
        (if (a.toNat - 0x080) / 4 < p.maxFields then .wrField (.ofNat 5 ((a.toNat - 0x080) / 4)) d
         else .wrUnmapped (.ofNat 10 (a.toNat / 4)) d)) ∧
    (0x100 ≤ a.toNat → a.toNat ≤ 0x1FF →
      decodeBus p false a d =
        (if (a.toNat - 0x100) / 4 < (p.maxPayload + 3) / 4 then .rdRecraw (.ofNat 6 ((a.toNat - 0x100) / 4))
         else .rdUnmapped (.ofNat 10 (a.toNat / 4))) ∧
      decodeBus p true a d =
        (if (a.toNat - 0x100) / 4 < (p.maxPayload + 3) / 4 then
           .wrRo (.recRaw (.ofNat 6 ((a.toNat - 0x100) / 4))) d
         else .wrUnmapped (.ofNat 10 (a.toNat / 4)) d)) ∧
    (0x400 ≤ a.toNat → a.toNat ≤ 0x7FF →
      decodeBus p false a d =
        (if (a.toNat - 0x400) / 4 < p.maxPayload then .rdRecelem (.ofNat 8 ((a.toNat - 0x400) / 4))
         else .rdUnmapped (.ofNat 10 (a.toNat / 4))) ∧
      decodeBus p true a d =
        (if (a.toNat - 0x400) / 4 < p.maxPayload then .wrRo (.recElem (.ofNat 8 ((a.toNat - 0x400) / 4))) d
         else .wrUnmapped (.ofNat 10 (a.toNat / 4)) d)) ∧
    ((0x038 ≤ a.toNat ∧ a.toNat ≤ 0x03F) ∨ (0x200 ≤ a.toNat ∧ a.toNat ≤ 0x3FF) ∨ 0x800 ≤ a.toNat →
      decodeBus p false a d = .rdUnmapped (.ofNat 10 (a.toNat / 4)) ∧
      decodeBus p true a d = .wrUnmapped (.ofNat 10 (a.toNat / 4)) d)) ∧
  (∀ (s : State) (a : BitVec 10) (d : Word),
    exec (.rdUnmapped a) s = .next { s with rdata := 0 } ∧ exec (.wrUnmapped a d) s = .next s)

/-! ### The step -/

/-- A step runs the decoded operations. With rst = 1 it is RESET. Otherwise the pins' bus access, the
selector's core action and the offered byte decode to operations, and the step runs them one after the
other on the pre-state with the output ports driven. That they run in the order bus access, core action,
push is the model's choice (log entry 10, DEDUCED: R85 composes core effect, push, write;
StepIsTheComposedCycle states the agreement). That a write to CTRL runs as the CONSTRUCT or STOP the
pre-state makes it, which is what WR_CTRL itself does, is the model's choice too (log entry 9,
DEDUCED). -/
def Obligations.StepRunsTheDecodedOperations : Prop :=
  ∀ s : State,
    ((nextInput s).rst = true → step s = exec .reset (takeInput s)) ∧
    ((nextInput s).rst = false →
      decodeTW s.params (coreWord (selector (takeInput s))) = .ok (coreOp (takeInput s)) ∧
      decodeTW s.params (makeWord 3 0 ((nextInput s).inData.setWidth 32)) = .ok (.push (nextInput s).inData) ∧
      ((nextInput s).busReq = 1 → ∃ i,
        decodeTW s.params (makeWord 1 (nextInput s).busAddr 0) = .ok i ∧
        step s = runOps (i :: coreOp (takeInput s) :: pushOp (nextInput s)) (drivePorts (takeInput s))) ∧
      ((nextInput s).busReq = 2 → ∃ i,
        decodeTW s.params (makeWord 2 (nextInput s).busAddr (nextInput s).busWdata) = .ok i ∧
        step s = runOps (resolveCtrl (takeInput s) i :: coreOp (takeInput s) :: pushOp (nextInput s))
          (drivePorts (takeInput s)) ∧
        exec (resolveCtrl (takeInput s) i) (drivePorts (takeInput s)) = exec i (drivePorts (takeInput s))) ∧
      ((nextInput s).busReq = 0 ∨ (nextInput s).busReq = 3 →
        step s = runOps (coreOp (takeInput s) :: pushOp (nextInput s)) (drivePorts (takeInput s)))) ∧
    (∀ (i : Instr) (rest : List Instr) (t : State),
      exec i s = .next t → runOps (i :: rest) s = runOps rest t)

/-- R85: the step is the cycle that 20_memory.md R85 composes: the core effect on the pre-state, the
push on top of it, the write, whose conditions are the pre-state's, on top of both, and the outputs
from the pre-state. The premise is R57 (6). -/
def Obligations.StepIsTheComposedCycle : Prop :=
  ∀ s : State, (s.en = true → s.sv = true) → step s = .next (Reference.cycle s)

/-- R345: no input is undefined: every operation and every cycle has a next state, in every state. -/
def Obligations.EveryOperationAndStepCompletes : Prop :=
  (∀ (i : Instr) (s : State), ∃ t, exec i s = .next t) ∧ (∀ s : State, ∃ t, step s = .next t)

/-- R346 (1): with rst = 1 every other input of the cycle is ignored. -/
def Obligations.ResetOverridesEveryOtherInput : Prop :=
  ∀ (s : State) (c d : CycleIn) (rest : List CycleIn), c.rst = true → d.rst = true →
    step { s with env := c :: rest } = step { s with env := d :: rest }

/-- The model's own placing of a word (log entry 7): the next step's cycle has the word's operation
among its operations, without a reset, and a placed byte is transferred. -/
def Obligations.PlacedWordIsRunByTheNextStep : Prop :=
  ∀ (s : State) (tw : BitVec 46) (i : Instr), s.params.Valid → Memory.wf s.ring = true →
    decodeTW s.params tw = .ok i →
    (nextInput (s.withFetchWord 48 tw.toNat)).rst = false ∧
    resolveCtrl s i ∈ cycleOps (nextInput (s.withFetchWord 48 tw.toNat)) (takeInput (s.withFetchWord 48 tw.toNat)) ∧
    (twChannel tw = 3 → readyFlag (s.withFetchWord 48 tw.toNat) = true)

/-- The outputs of a cycle: in_ready (R200), rec_valid (R288) and bus_rdata (R32, R85) are those of the
pre-state; in a reset cycle in_ready and bus_rdata are 0 (R372). -/
def Obligations.OutputsAreThoseOfThePreState : Prop :=
  ∀ s : State, ∃ t, step s = .next t ∧
    t.recValid = s.outValid ∧
    t.inReady = (!(nextInput s).rst && s.en && decide (s.fill + s.pend < s.params.maxPayload)) ∧
    t.rdata =
      (if (nextInput s).rst = false ∧ (nextInput s).busReq = 1 then
         Reference.readValue s (nextInput s).busAddr
       else 0)

/-! ### Configuration -/

/-- RD_CTRL, RD_CFG, RD_START and RD_FIELD return the register and change nothing else. -/
def Obligations.ConfigurationReadsReturnTheRegister : Prop :=
  ReadsAt 2 .rdCtrl ∧ ReadsAt 3 .rdCfg ∧
  ReadsIn 0x040 (fun p => (p.maxStart + 3) / 4) (fun w => .rdStart (.ofNat 4 w)) ∧
  ReadsIn 0x080 (fun p => p.maxFields) (fun i => .rdField (.ofNat 5 i)) ∧
  ∀ (s : State) (w : BitVec 4) (i : BitVec 5),
    exec .rdCtrl s = .next { s with rdata := if s.en then 1 else 0 } ∧
    exec .rdCfg s = .next { s with rdata := s.cfg } ∧
    (w.toNat < (s.params.maxStart + 3) / 4 → exec (.rdStart w) s = .next { s with rdata := s.start[w.toNat] }) ∧
    (i.toNat < s.params.maxFields → exec (.rdField i) s = .next { s with rdata := s.field[i.toNat] })

/-- R172: RD_ERR returns CODE in [3:0], FIDX in [12:8] and WERR in bit 16. -/
def Obligations.ErrReadPacksTheErrorFields : Prop :=
  ReadsAt 5 .rdErr ∧
  ∀ s : State, ∃ v : Word, exec .rdErr s = .next { s with rdata := v } ∧
    v.toNat = s.errCode.toNat + 256 * s.errFidx.toNat + 65536 * s.werr.toNat

/-- R167, R169, R171, R173: while EN = 0 a write to a configuration register stores the value under its
mask, every other register and entry stays, and reading the register returns what was stored; while
EN = 1 the write changes no configuration register and sets ERR.WERR. -/
def Obligations.ConfigurationWritesNeedAStoppedDecoder : Prop :=
  WritesAt 3 .wrCfg ∧
  WritesIn 0x040 (fun p => (p.maxStart + 3) / 4) (fun w => .wrStart (.ofNat 4 w)) ∧
  WritesIn 0x080 (fun p => p.maxFields) (fun i => .wrField (.ofNat 5 i)) ∧
  ∀ (s : State) (d : Word),
    (s.en = false →
      exec (.wrCfg d) s = .next { s with cfg := d &&& 0x00FFFF01 } ∧
      (∀ w : BitVec 4, w.toNat < (s.params.maxStart + 3) / 4 →
        ∃ t, exec (.wrStart w d) s = .next t ∧ t = { s with start := t.start } ∧
          startAt t w.toNat = d ∧ (∀ v < 16, v ≠ w.toNat → startAt t v = startAt s v) ∧
          exec (.rdStart w) t = .next { t with rdata := d }) ∧
      (∀ i : BitVec 5, i.toNat < s.params.maxFields →
        ∃ t, exec (.wrField i d) s = .next t ∧ t = { s with field := t.field } ∧
          fieldAt t i.toNat = d &&& 0x0000FF8F ∧ (∀ j < 32, j ≠ i.toNat → fieldAt t j = fieldAt s j) ∧
          exec (.rdField i) t = .next { t with rdata := d &&& 0x0000FF8F })) ∧
    (s.en = true →
      exec (.wrCfg d) s = .next { s with werr := true } ∧
      (∀ w : BitVec 4, w.toNat < (s.params.maxStart + 3) / 4 →
        exec (.wrStart w d) s = .next { s with werr := true }) ∧
      (∀ i : BitVec 5, i.toNat < s.params.maxFields →
        exec (.wrField i d) s = .next { s with werr := true }))

/-- R174: WR_ERR with wdata[16] = 1 clears WERR and nothing else; with wdata[16] = 0 it does nothing. -/
def Obligations.ErrWriteClearsOnlyWerr : Prop :=
  WritesAt 5 .wrErr ∧
  ∀ (s : State) (d : Word),
    (d.getLsbD 16 = true → exec (.wrErr d) s = .next { s with werr := false }) ∧
    (d.getLsbD 16 = false → exec (.wrErr d) s = .next s)

/-- R162: WR_CTRL is CONSTRUCT with wdata[0] = 1 while EN = 0, STOP with wdata[0] = 0 while EN = 1, and
has no effect otherwise; wdata[31:1] is ignored. -/
def Obligations.CtrlWriteConstructsOrStops : Prop :=
  WritesAt 2 .wrCtrl ∧
  ∀ (s : State) (d : Word) (hi : BitVec 31),
    (d.getLsbD 0 = true → s.en = false → ∃ t,
      exec (.wrCtrl d) s = .next t ∧ exec (.construct hi) s = .next t ∧ t.en = decide ((checkConfig s).1 = 0)) ∧
    (d.getLsbD 0 = false → s.en = true →
      exec (.wrCtrl d) s = .next { s with en := false } ∧ exec (.stop hi) s = .next { s with en := false }) ∧
    (d.getLsbD 0 = s.en → exec (.wrCtrl d) s = .next s)

/-- R165: STOP clears EN and keeps everything else. R165 defines STOP while EN = 1; that the operation
has no effect with EN = 0 is the model's choice (log entry 9, DEDUCED from R162). -/
def Obligations.StopClearsOnlyEn : Prop :=
  ∀ (s : State) (hi : BitVec 31),
    (s.en = true → exec (.stop hi) s = .next { s with en := false }) ∧
    (s.en = false → exec (.stop hi) s = .next s)

/-- R163: Check runs its tests in the order written, and the first that fails decides code and index. -/
def Obligations.CheckReportsTheFirstFailingTest : Prop :=
  ∀ s : State,
    ((cfgStartLen s.cfg).toNat > s.params.maxStart → checkConfig s = (1, 0)) ∧
    ((cfgStartLen s.cfg).toNat ≤ s.params.maxStart →
      (cfgNfields s.cfg).toNat = 0 ∨ (cfgNfields s.cfg).toNat > s.params.maxFields →
      checkConfig s = (2, 0)) ∧
    (sizesLegal s → ∀ i < (cfgNfields s.cfg).toNat, 8 ≤ (fieldEnc (fieldAt s i)).toNat →
      (∀ j < i, (fieldEnc (fieldAt s j)).toNat < 8) → checkConfig s = (3, .ofNat 5 i)) ∧
    (sizesLegal s → typesKnown s → ∀ i < (cfgNfields s.cfg).toNat, fieldCount (fieldAt s i) = 0 →
      (∀ j < i, fieldCount (fieldAt s j) ≠ 0) → checkConfig s = (4, .ofNat 5 i)) ∧
    (sizesLegal s → typesKnown s → countsPositive s →
      (∀ i j, i < j → j < (cfgNfields s.cfg).toNat → fieldPar (fieldAt s i) = true →
        fieldPar (fieldAt s j) = true → (∀ k < j, fieldPar (fieldAt s k) = true → k = i) →
        checkConfig s = (5, .ofNat 5 j)) ∧
      (∀ q, onlyParity s q → fieldCount (fieldAt s q) ≠ 1 → checkConfig s = (6, .ofNat 5 q)) ∧
      (∀ q, onlyParity s q → fieldCount (fieldAt s q) = 1 → encSize (fieldEnc (fieldAt s q)) ≠ 1 →
        checkConfig s = (7, .ofNat 5 q)) ∧
      (parityLegal s → sumBelow (cfgNfields s.cfg).toNat (fieldBytes s) > s.params.maxPayload →
        checkConfig s = (8, 0)) ∧
      (parityLegal s → sumBelow (cfgNfields s.cfg).toNat (fieldBytes s) ≤ s.params.maxPayload →
        checkConfig s = (0, 0)))

/-- R164, with the quantities of R52: a construct whose Check fails records code and index in ERR and
changes nothing else. One whose Check passes latches the configuration, computes the derived
quantities, clears the decoder state, OUT_VALID and the counters, sets EN and SV, and changes nothing
else. R164 defines CONSTRUCT while EN = 0; that the operation has no effect with EN = 1 is the model's
choice (log entry 9, DEDUCED from R162). -/
def Obligations.ConstructFollowsCheck : Prop :=
  ∀ (s : State) (hi : BitVec 31), s.params.Valid →
    (s.en = true → exec (.construct hi) s = .next s) ∧
    (s.en = false → (checkConfig s).1 ≠ 0 →
      exec (.construct hi) s =
        .next { s with errCode := (checkConfig s).1, errFidx := (checkConfig s).2 }) ∧
    (s.en = false → (checkConfig s).1 = 0 → ∃ t, exec (.construct hi) s = .next t ∧
      t = { s with
        schema := t.schema, sv := true, en := true, errCode := 0, errFidx := 0, progress := 0, head := 0,
        fill := 0, pend := 0, outValid := false, seeks := 0, pfail := 0, psucc := 0 } ∧
      t.schema.big = s.cfg.getLsbD 0 ∧
      t.schema.startLen = s.cfg.extractLsb' 8 8 ∧
      t.schema.nf = s.cfg.extractLsb' 16 8 ∧
      (∀ j < s.params.maxStart,
        schemaStart t.schema j = (startAt s (j / 4)).extractLsb' (8 * (j % 4)) 8) ∧
      (∀ i < s.params.maxFields,
        schemaEnc t.schema i = (fieldAt s i).extractLsb' 0 4 ∧
        schemaPar t.schema i = (fieldAt s i).getLsbD 7 ∧
        schemaCount t.schema i = ((fieldAt s i).extractLsb' 8 8).toNat) ∧
      (∀ i < t.schema.nf.toNat,
        schemaFoff t.schema i =
          sumBelow i (fun j => schemaCount t.schema j * encSize (schemaEnc t.schema j)) ∧
        schemaFelem t.schema i = sumBelow i (schemaCount t.schema)) ∧
      t.schema.payloadLen =
        sumBelow t.schema.nf.toNat (fun j => schemaCount t.schema j * encSize (schemaEnc t.schema j)) ∧
      t.schema.nelem = sumBelow t.schema.nf.toNat (schemaCount t.schema) ∧
      (t.schema.ppres = true ↔ ∃ i < t.schema.nf.toNat, schemaPar t.schema i = true) ∧
      (t.schema.ppres = true →
        t.schema.pidx < t.schema.nf.toNat ∧ schemaPar t.schema t.schema.pidx = true ∧
        t.schema.poff = schemaFoff t.schema t.schema.pidx ∧
        t.schema.penc = schemaEnc t.schema t.schema.pidx) ∧
      (t.schema.ppres = false → t.schema.pidx = 0 ∧ t.schema.poff = 0 ∧ t.schema.penc = 0))

/-- R52: after a successful construct the schema is legal: 1 <= L_P <= MAX_PAYLOAD,
1 <= L_NELEM <= L_P, every listed field has a known type and a count of at least 1, and a parity field
is one byte inside the payload. -/
def Obligations.ConstructedSchemaIsLegal : Prop :=
  ∀ (s t : State) (hi : BitVec 31), s.params.Valid → s.en = false → (checkConfig s).1 = 0 →
    exec (.construct hi) s = .next t → LegalSchema t.params t.schema

/-! ### Status, identification and counters -/

/-- RD_ID, RD_PARAMS, RD_RECCTRL and RD_UNMAPPED return constants in every state (the values of R320,
R321, R287 and, for the read, R331). -/
def Obligations.ConstantReads : Prop :=
  ReadsAt 0 .rdId ∧ ReadsAt 1 .rdParams ∧ ReadsAt 12 .rdRecctrl ∧
  ∀ (s : State) (a : BitVec 10),
    exec .rdId s = .next { s with rdata := 0x46535901 } ∧
    (s.params.Valid → ∃ v : Word, exec .rdParams s = .next { s with rdata := v } ∧
      v.toNat = 65536 * s.params.maxPayload + 256 * s.params.maxFields + s.params.maxStart) ∧
    exec .rdRecctrl s = .next { s with rdata := 0 } ∧
    exec (.rdUnmapped a) s = .next { s with rdata := 0 }

/-- R322: RD_STATUS packs EN, ACCUM, FULL, OUT_VALID, PPRES, BIG and SV into bits 0 to 6 and PROGRESS
into [15:8], where ACCUM and FULL are the signals of R55. -/
def Obligations.StatusReadPacksTheFlags : Prop :=
  ReadsAt 4 .rdStatus ∧
  ∀ s : State, ∃ v : Word, exec .rdStatus s = .next { s with rdata := v } ∧
    v.toNat =
      s.en.toNat
        + 2 * (s.sv && decide (s.progress = s.schema.startLen.toNat)).toNat
        + 4 * (s.sv && decide (s.progress = s.schema.startLen.toNat)
            && decide (s.fill = s.schema.payloadLen)).toNat
        + 8 * s.outValid.toNat + 16 * s.schema.ppres.toNat + 32 * s.schema.big.toNat
        + 64 * s.sv.toNat + 256 * (s.progress % 256)

/-- R323 to R326: RD_LAYOUT, RD_PARITY, RD_FILLPEND and RD_HEADPTR return their two halves. -/
def Obligations.LayoutAndOccupancyReads : Prop :=
  ReadsAt 6 .rdLayout ∧ ReadsAt 7 .rdParity ∧ ReadsAt 8 .rdFillpend ∧ ReadsAt 13 .rdHeadptr ∧
  ∀ s : State,
    (∃ v : Word, exec .rdLayout s = .next { s with rdata := v } ∧
      v.toNat = s.schema.payloadLen % 65536 + 65536 * (s.schema.nelem % 65536)) ∧
    (∃ v : Word, exec .rdParity s = .next { s with rdata := v } ∧
      v.toNat = s.schema.poff % 65536 + 65536 * s.schema.ppres.toNat) ∧
    (∃ v : Word, exec .rdFillpend s = .next { s with rdata := v } ∧
      v.toNat = s.fill % 65536 + 65536 * (s.pend % 65536)) ∧
    (∃ v : Word, exec .rdHeadptr s = .next { s with rdata := v } ∧ v.toNat = s.head % 65536)

/-- R327 to R329: the counter reads return the counters. -/
def Obligations.CounterReadsReturnTheCounters : Prop :=
  ReadsAt 9 .rdSeeks ∧ ReadsAt 10 .rdPfail ∧ ReadsAt 11 .rdPsucc ∧
  ∀ s : State,
    exec .rdSeeks s = .next { s with rdata := s.seeks } ∧
    exec .rdPfail s = .next { s with rdata := s.pfail } ∧
    exec .rdPsucc s = .next { s with rdata := s.psucc }

/-- R330: a write to a read-only register or window changes nothing, WERR included; nor does a write to
an unmapped offset (R331). -/
def Obligations.ReadOnlyAndUnmappedWritesChangeNothing : Prop :=
  (∀ (p : Params) (a : BitVec 12) (d : Word) (n : Nat), n ∈ [0, 1, 4, 6, 7, 8, 9, 10, 11, 13] →
    a.toNat / 4 = n → ∃ r, decodeTW p (makeWord 2 a d) = .ok (.wrRo r d)) ∧
  WritesIn 0x100 (fun p => (p.maxPayload + 3) / 4) (fun w => .wrRo (.recRaw (.ofNat 6 w))) ∧
  WritesIn 0x400 (fun p => p.maxPayload) (fun k => .wrRo (.recElem (.ofNat 8 k))) ∧
  ∀ (s : State) (r : RoReg) (a : BitVec 10) (d : Word),
    exec (.wrRo r d) s = .next s ∧ exec (.wrUnmapped a d) s = .next s

/-- R83: no read has a side effect: a bus read at any address changes nothing but the read-data
port. -/
def Obligations.ReadsHaveNoSideEffect : Prop :=
  ∀ (p : Params) (a : BitVec 12) (d : Word) (s : State),
    ∃ v : Word, exec (decodeBus p false a d) s = .next { s with rdata := v }

/-- R332: without a reset and a successful construct no counter decreases, each rises by at most 1 in a
cycle, and at most one of them changes. -/
def Obligations.CountersRiseByAtMostOne : Prop :=
  ∀ s : State, (nextInput s).rst = false → ¬constructsNext s → ∃ t, step s = .next t ∧
    s.seeks.toNat ≤ t.seeks.toNat ∧ s.pfail.toNat ≤ t.pfail.toNat ∧ s.psucc.toNat ≤ t.psucc.toNat ∧
    t.seeks.toNat + t.pfail.toNat + t.psucc.toNat ≤ s.seeks.toNat + s.pfail.toNat + s.psucc.toNat + 1

/-! ### Stream input -/

/-- R201: a transferred byte is written at the tail, every other ring byte stays, PEND rises by one and
nothing else changes; a byte offered while in_ready = 0 is not taken. -/
def Obligations.PushWritesOneByteAtTheTail : Prop :=
  (∀ (p : Params) (b : Byte), decodeTW p (makeWord 3 0 (b.setWidth 32)) = .ok (.push b)) ∧
  ∀ (s : State) (b : Byte), Memory.wf s.ring = true →
    (s.inReady = true → ∃ t, exec (.push b) s = .next t ∧
      t = { s with ring := t.ring, pend := s.pend + 1 } ∧
      Memory.wf t.ring = true ∧
      (∀ a, Memory.read t.ring a =
        if a = (s.head + s.fill + s.pend) % s.params.maxPayload then b else Memory.read s.ring a)) ∧
    (s.inReady = false → exec (.push b) s = .next s)

/-- R202: what each core action does to the number of bytes in use, FILL + PEND. -/
def Obligations.CoreActionsNeverAddBytes : Prop :=
  ∀ s : State, Inv s → ∃ t, exec (coreOp s) s = .next t ∧
    (coreOp s = .scanSeekHit ∨ coreOp s = .scanSeekMiss ∨ coreOp s = .validateReject →
      t.fill + t.pend + 1 = s.fill + s.pend) ∧
    (coreOp s = .scanAccum → t.fill + t.pend = s.fill + s.pend) ∧
    (coreOp s = .validateAccept → t.fill + t.pend + s.schema.payloadLen = s.fill + s.pend) ∧
    t.fill + t.pend ≤ s.fill + s.pend

/-! ### Synchronizer -/

/-- R221 to R224: the scan actions and CORE_IDLE. A seek drops the byte at HEAD; a hit advances
PROGRESS, a miss clears it and counts with saturation; an accumulated byte stays in the ring. No byte
of RING or OUT and no other register changes. -/
def Obligations.ScanActionsHaveTheirEffects : Prop :=
  SelectedBy 0x6E 0x4A .scanSeekHit ∧ SelectedBy 0x6E 0x48 .scanSeekMiss ∧ SelectedBy 0x6C 0x4C .scanAccum ∧
  SelectedBy 0x40 0x00 (.coreIdle .disabled) ∧ SelectedBy 0x68 0x40 (.coreIdle .nothingPending) ∧
  ∀ (s : State) (row : IdleRow),
    exec .scanSeekHit s =
      .next { s with head := (s.head + 1) % s.params.maxPayload, pend := s.pend - 1, progress := s.progress + 1 } ∧
    exec .scanSeekMiss s =
      .next { s with head := (s.head + 1) % s.params.maxPayload, pend := s.pend - 1, progress := 0,
                     seeks := if s.seeks = 0xFFFFFFFF then s.seeks else s.seeks + 1 } ∧
    exec .scanAccum s = .next { s with fill := s.fill + 1, pend := s.pend - 1 } ∧
    exec (.coreIdle row) s = .next s

/-- R220: the core performs the action the decode table gives for the selector, which is the action
R220's cases name. The premise is R57 (6). -/
def Obligations.CoreActionIsChosenByTheRule : Prop :=
  ∀ s : State, (s.en = true → s.sv = true) → coreOp s = Reference.coreAction s

/-- R225: with an empty start sequence the decoder is Accumulating in every state with SV = 1, never
seeks, appends every pending byte, keeps SEEKS, and is at PROGRESS = 0 again after every core action.
The premise PROGRESS = 0 is R57 (3). -/
def Obligations.EmptyStartSequenceNeverSeeks : Prop :=
  ∀ s : State, s.sv = true → s.schema.startLen = 0 → s.progress = 0 →
    accumFlag s = true ∧ coreOp s ≠ .scanSeekHit ∧ coreOp s ≠ .scanSeekMiss ∧
    (s.en = true → fullFlag s = false → 0 < s.pend → coreOp s = .scanAccum) ∧
    ∃ t, exec (coreOp s) s = .next t ∧ t.seeks = s.seeks ∧ t.progress = 0

/-- R229: no core action moves the tail. -/
def Obligations.CoreActionsKeepTheTail : Prop :=
  ∀ s : State, Inv s → ∃ t, exec (coreOp s) s = .next t ∧
    (t.head + t.fill + t.pend) % t.params.maxPayload = (s.head + s.fill + s.pend) % s.params.maxPayload

/-- R228: every core action but CORE_IDLE and CORE_STALL lowers (FILL + PEND, PEND) in lexicographic
order, so the core reaches one of the two within finitely many cycles after the last byte. -/
def Obligations.CoreActionsLowerTheMeasure : Prop :=
  ∀ s : State, Inv s → (∀ row, coreOp s ≠ .coreIdle row) → coreOp s ≠ .coreStall →
    ∃ t, exec (coreOp s) s = .next t ∧
      (t.fill + t.pend < s.fill + s.pend ∨ (t.fill + t.pend = s.fill + s.pend ∧ t.pend < s.pend))

/-- R228: Feed terminates on every finite stream. -/
def Obligations.FeedTerminates : Prop :=
  ∀ (l : Schema) (f : FeedState) (stream : List Byte), ∃ n, (Reference.feed l n (f, stream)).2 = []

/-- R226, R227: a core action is one unfolding of Feed on the stream the state stands for when it scans
a byte, and none otherwise. -/
def Obligations.CoreActionRefinesFeed : Prop :=
  ∀ (s : State) (recs : List (List Byte)), Inv s → s.en = true →
    ∃ t, exec (coreOp s) s = .next t ∧
      Reference.streamView (Reference.recordsAfter recs s) t =
        if scans (coreOp s) then Reference.feedStep s.schema (Reference.streamView recs s)
        else Reference.streamView recs s

/-- R227: a cycle of a running decoder refines Feed: the stream state after it is that before it after
at most one unfolding of Feed, with the byte transferred in the cycle appended to the stream. -/
def Obligations.StepRefinesFeed : Prop :=
  ∀ (s : State) (recs : List (List Byte)), Inv s → s.en = true → (nextInput s).rst = false →
    ∃ t n, step s = .next t ∧ n ≤ 1 ∧
      Reference.streamView (Reference.recordsAfter recs s) t =
        ((Reference.feed s.schema n (Reference.streamView recs s)).1,
          (Reference.feed s.schema n (Reference.streamView recs s)).2 ++ transferred s)

/-! ### Validator -/

/-- R250: without a parity field every payload passes. With one, a payload passes exactly when the
exclusive-or of its bytes up to and including the parity byte is 0x00, and a SINT8 parity byte of 0x80
or more never passes. -/
def Obligations.ParityPassesWhenTheXorIsZero : Prop :=
  ∀ (l : Schema) (read : Nat → Byte),
    (l.ppres = false → passBytes l read = true) ∧
    (l.ppres = true → l.penc ≠ 2 →
      (passBytes l read = true ↔ xorBytes ((List.range (l.poff + 1)).map read) = 0)) ∧
    (l.ppres = true → l.penc = 2 →
      (passBytes l read = true ↔
        xorBytes ((List.range (l.poff + 1)).map read) = 0 ∧ (read l.poff).toNat < 128))

/-- R251: VALIDATE_ACCEPT copies the payload to OUT[0 .. L_P-1] and leaves the rest of OUT, frees its
ring slots, clears PROGRESS and counts PSUCC, with saturation, only where a parity field exists;
nothing else changes, PEND and the other counters included. -/
def Obligations.AcceptCopiesThePayload : Prop :=
  SelectedBy 0x71 0x61 .validateAccept ∧
  ∀ s : State, Memory.wf s.out = true → ∃ t, exec .validateAccept s = .next t ∧
    t = { s with
      out := t.out, outValid := true, head := (s.head + s.schema.payloadLen) % s.params.maxPayload,
      fill := 0, progress := 0,
      psucc := if s.schema.ppres = true ∧ s.psucc ≠ 0xFFFFFFFF then s.psucc + 1 else s.psucc } ∧
    Memory.wf t.out = true ∧
    (∀ k, Memory.read t.out k =
      if k < s.schema.payloadLen then Memory.read s.ring ((s.head + k) % s.params.maxPayload)
      else Memory.read s.out k)

/-- R252, R253: VALIDATE_REJECT drops the window's first byte, makes the others pending again and
counts PFAIL with saturation, which happens only with a parity field; CORE_STALL changes nothing.
Neither writes a byte of RING or OUT. -/
def Obligations.RejectSlidesByOneByte : Prop :=
  SelectedBy 0x61 0x60 .validateReject ∧ SelectedBy 0x71 0x71 .coreStall ∧
  ∀ s : State,
    (coreOp s = .validateReject → s.schema.ppres = true) ∧
    exec .validateReject s =
      .next { s with
        head := (s.head + 1) % s.params.maxPayload, pend := s.pend + s.schema.payloadLen - 1, fill := 0,
        progress := 0, pfail := if s.pfail = 0xFFFFFFFF then s.pfail else s.pfail + 1 } ∧
    exec .coreStall s = .next s

/-! ### Record output -/

/-- R284: RD_RECRAW returns four record bytes, the lowest offset in the lowest lane, bytes past L_P and
every byte while OUT_VALID = 0 reading 0. -/
def Obligations.RawReadReturnsRecordBytes : Prop :=
  ReadsIn 0x100 (fun p => (p.maxPayload + 3) / 4) (fun w => .rdRecraw (.ofNat 6 w)) ∧
  ∀ (s : State) (w : BitVec 6), w.toNat < (s.params.maxPayload + 3) / 4 →
    ∃ v : Word, exec (.rdRecraw w) s = .next { s with rdata := v } ∧
      ∀ m < 4, v.extractLsb' (8 * m) 8 =
        if s.outValid = true ∧ 4 * w.toNat + m < s.schema.payloadLen then outByte s (4 * w.toNat + m) else 0

/-- R282, R285: in a record of a schema with its derived quantities, element e of field i is read at
k = FELEM[i] + e, assembled from the bytes at FOFF[i] + e·size in the latched byte order and extended
by its encoding. -/
def Obligations.ElementReadUnpacksTheField : Prop :=
  ∀ (s : State) (i e : Nat) (k : BitVec 8), s.outValid = true → s.schema.nf.toNat ≤ 32 →
    s.schema = deriveSchema s.schema → i < s.schema.nf.toNat → e < schemaCount s.schema i →
    k.toNat = schemaFelem s.schema i + e → k.toNat < s.params.maxPayload →
    (schemaEnc s.schema i = 0 ∨ schemaEnc s.schema i = 1 →
      exec (.rdRecelem k) s = .next { s with rdata := (outByte s (schemaFoff s.schema i + e)).zeroExtend 32 }) ∧
    (schemaEnc s.schema i = 2 →
      exec (.rdRecelem k) s = .next { s with rdata := (outByte s (schemaFoff s.schema i + e)).signExtend 32 }) ∧
    (schemaEnc s.schema i = 3 →
      exec (.rdRecelem k) s =
        .next { s with rdata := (wireWord16 s (schemaFoff s.schema i + 2 * e)).zeroExtend 32 }) ∧
    (schemaEnc s.schema i = 4 →
      exec (.rdRecelem k) s =
        .next { s with rdata := (wireWord16 s (schemaFoff s.schema i + 2 * e)).signExtend 32 }) ∧
    (schemaEnc s.schema i = 5 ∨ schemaEnc s.schema i = 6 ∨ schemaEnc s.schema i = 7 →
      exec (.rdRecelem k) s = .next { s with rdata := wireWord32 s (schemaFoff s.schema i + 4 * e) })

/-- R285: REC_ELEM[k] reads 0 while OUT_VALID = 0 and for k >= L_NELEM. -/
def Obligations.ElementReadIsZeroOutsideTheRecord : Prop :=
  ReadsIn 0x400 (fun p => p.maxPayload) (fun k => .rdRecelem (.ofNat 8 k)) ∧
  ∀ (s : State) (k : BitVec 8), s.outValid = false ∨ s.schema.nelem ≤ k.toNat →
    exec (.rdRecelem k) s = .next { s with rdata := 0 }

/-- R286: a write to RECCTRL with wdata[0] = 1 while OUT_VALID = 1 releases the record and changes
nothing else, whatever EN is; any other write to it has no effect. -/
def Obligations.PopReleasesTheRecord : Prop :=
  WritesAt 12 .wrRecctrl ∧
  ∀ (s : State) (d : Word),
    (d.getLsbD 0 = true → s.outValid = true → exec (.wrRecctrl d) s = .next { s with outValid := false }) ∧
    (d.getLsbD 0 = false ∨ s.outValid = false → exec (.wrRecctrl d) s = .next s)

/-- R280: while OUT_VALID = 1, a cycle without a reset, a POP and a successful construct leaves the
record as it was: OUT, OUT_VALID and L, and so every word and element read of it. -/
def Obligations.RecordIsStableUntilReleased : Prop :=
  ∀ s : State, s.outValid = true → (nextInput s).rst = false → ¬writesWord s 12 true →
    ¬constructsNext s → ∃ t, step s = .next t ∧
      t.out = s.out ∧ t.outValid = true ∧ t.schema = s.schema ∧
      (∀ w, rawWord t w = rawWord s w) ∧ (∀ k, elemValue t k = elemValue s k)

/-- R286, R375: in the POP cycle of a stalled core the record is released and the payload is not yet
accepted; in the next cycle the core accepts it. -/
def Obligations.StalledPayloadIsAcceptedAfterThePop : Prop :=
  ∀ s : State, Inv s → coreOp s = .coreStall → (nextInput s).rst = false → writesWord s 12 true →
    ∃ t, step s = .next t ∧ t.outValid = false ∧ t.psucc = s.psucc ∧ coreOp t = .validateAccept

/-! ### Reset, and what the lifecycle keeps -/

/-- R370: a cycle with rst = 1 is a RESET. Every element takes the value of R371, and the outputs are
in_ready = 0, rdata = 0 and rec_valid = the pre-state OUT_VALID. Nothing is said of RING and OUT, which
R371 leaves unspecified; the inputs still to come are not FSYNC's. -/
def Obligations.ResetGivesTheResetState : Prop :=
  (∀ s : State, ∃ t, exec .reset s = .next t ∧
    t = { State.resetOf s.params with
      ring := t.ring, out := t.out, inReady := false, rdata := 0, recValid := s.outValid, env := s.env }) ∧
  (∀ s : State, (nextInput s).rst = true → step s = exec .reset (takeInput s))

/-- R371: after a reset every register, flag, counter and latched item is 0, and the register map reads
ID, PARAMS, and 0 for every other offset. -/
def Obligations.RegisterMapAfterReset : Prop :=
  ∀ s : State, ∃ t, exec .reset s = .next t ∧
    t.params = s.params ∧ t.cfg = 0 ∧ (∀ w < 16, startAt t w = 0) ∧ (∀ i < 32, fieldAt t i = 0) ∧
    t.en = false ∧ t.sv = false ∧ t.errCode = 0 ∧ t.errFidx = 0 ∧ t.werr = false ∧
    t.schema = Schema.zero ∧ t.progress = 0 ∧ t.head = 0 ∧ t.fill = 0 ∧ t.pend = 0 ∧
    t.outValid = false ∧ t.seeks = 0 ∧ t.pfail = 0 ∧ t.psucc = 0 ∧
    accumFlag t = false ∧ fullFlag t = false ∧
    ∀ a : BitVec 12, ∃ v : Word,
      exec (decodeBus t.params false a 0) t = .next { t with rdata := v } ∧
      (a.toNat / 4 = 0 → v = 0x46535901) ∧
      (a.toNat / 4 = 1 → v.toNat =
        65536 * (s.params.maxPayload % 65536) + 256 * (s.params.maxFields % 256) + s.params.maxStart % 256) ∧
      (2 ≤ a.toNat / 4 → v = 0)

/-- The reset state of every instance that R6 allows satisfies the invariant, State.reset among them.
That its byte stores are in canonical form is the model's choice of their contents (log entry 3). -/
def Obligations.ResetStateMeetsTheInvariant : Prop :=
  (∀ p : Params, p.Valid → Inv (State.resetOf p)) ∧ Inv State.reset

/-- R57, R33, R52: every step keeps the invariant, from every state that meets it: the occupancy of the
ring, the legality of the latched schema, reserved bits and unimplemented entries reading 0, and the
canonical form of the byte stores. -/
def Obligations.StepKeepsTheInvariant : Prop :=
  ∀ s : State, Inv s → ∃ t, step s = .next t ∧ Inv t

/-- R342: a write to a configuration register while EN = 1 is dropped and sets ERR.WERR; WERR then stays
until a write of 1 to ERR bit 16 or a reset. No other event sets it, and construct does not clear it. -/
def Obligations.WerrIsSetByIgnoredWritesOnly : Prop :=
  ∀ s : State, s.params.Valid → ∃ t, step s = .next t ∧
    ((nextInput s).rst = true → t.werr = false) ∧
    ((nextInput s).rst = false →
      (isCfgWord s.params ((nextInput s).busAddr.toNat / 4) → (nextInput s).busReq = 2 → s.en = true →
        t.werr = true ∧ t.cfg = s.cfg ∧ t.start = s.start ∧ t.field = s.field) ∧
      (¬(isCfgWord s.params ((nextInput s).busAddr.toNat / 4) ∧ (nextInput s).busReq = 2 ∧ s.en = true) →
        t.werr =
          (s.werr && !decide ((nextInput s).busReq = 2 ∧ (nextInput s).busAddr.toNat / 4 = 5 ∧
            (nextInput s).busWdata.getLsbD 16 = true))))

/-- R58: in a cycle without a reset and a successful construct, each counter changes only by its core
action, OUT_VALID becomes 1 only by VALIDATE_ACCEPT and 0 only by a POP, and ERR.CODE and ERR.FIDX
change only by a construct attempt. -/
def Obligations.FlagsHaveTheirWriters : Prop :=
  ∀ s : State, (nextInput s).rst = false → ¬constructsNext s → ∃ t, step s = .next t ∧
    (coreOp s ≠ .scanSeekMiss → t.seeks = s.seeks) ∧
    (coreOp s ≠ .validateReject → t.pfail = s.pfail) ∧
    (coreOp s ≠ .validateAccept ∨ s.schema.ppres = false → t.psucc = s.psucc) ∧
    (coreOp s = .validateAccept → t.outValid = true) ∧
    (coreOp s ≠ .validateAccept → writesWord s 12 true → t.outValid = false) ∧
    (coreOp s ≠ .validateAccept → ¬writesWord s 12 true → t.outValid = s.outValid) ∧
    (¬(writesWord s 2 true ∧ s.en = false) → t.errCode = s.errCode ∧ t.errFidx = s.errFidx)

/-- R89, R376: no cycle of a running decoder without a reset changes a configuration register or the
latched schema; a write to CFG, an implemented START[w] or an implemented FIELD[i] sets WERR. -/
def Obligations.RunningConfigurationIsImmutable : Prop :=
  ∀ s : State, s.en = true → (nextInput s).rst = false → ∃ t, step s = .next t ∧
    t.cfg = s.cfg ∧ t.start = s.start ∧ t.field = s.field ∧ t.schema = s.schema ∧ t.sv = s.sv ∧
    (s.params.Valid → (nextInput s).busReq = 2 →
      isCfgWord s.params ((nextInput s).busAddr.toNat / 4) → t.werr = true)

/-- R89: in any cycle without a reset the latched schema changes only by a successful construct, which
copies the configuration registers of the pre-state. -/
def Obligations.OnlyConstructChangesTheSchema : Prop :=
  ∀ s : State, (nextInput s).rst = false → ∃ t, step s = .next t ∧
    (¬constructsNext s → t.schema = s.schema) ∧ (constructsNext s → t.schema = latchSchema s)

/-- R165, R377: while EN = 0, a cycle without a reset and a successful construct leaves the whole
decoder as it is; only a POP clears OUT_VALID, and no byte is taken. -/
def Obligations.StoppedDecoderIsFrozen : Prop :=
  ∀ s : State, s.en = false → (nextInput s).rst = false → ¬constructsNext s → ∃ t, step s = .next t ∧
    t.en = false ∧ t.sv = s.sv ∧ t.schema = s.schema ∧ t.progress = s.progress ∧ t.ring = s.ring ∧
    t.head = s.head ∧ t.fill = s.fill ∧ t.pend = s.pend ∧ t.out = s.out ∧ t.seeks = s.seeks ∧
    t.pfail = s.pfail ∧ t.psucc = s.psucc ∧ t.inReady = false ∧
    (¬writesWord s 12 true → t.outValid = s.outValid) ∧ (writesWord s 12 true → t.outValid = false)

/-- R379: the cycle of a stop performs its core action and takes its byte as the same cycle without the
stop would; only EN differs after it. -/
def Obligations.StopCycleStillRunsTheCore : Prop :=
  ∀ (s : State) (c : CycleIn) (rest : List CycleIn), s.en = true → s.env = c :: rest → c.rst = false →
    writesWord s 2 false →
    ∃ t u, step s = .next t ∧ step { s with env := { c with busReq := 0 } :: rest } = .next u ∧
      t = { u with en := false }

/-- R382: a quiescent core (EN = 1, FULL = 0, PEND = 0) stays quiescent while no byte is transferred, in
every cycle without a reset, whatever its bus access is: a read, a POP, a write to ERR, an ignored
configuration write, a write of 1 to CTRL. Its counters, PROGRESS, FILL and ring are unchanged. A STOP
keeps them too and clears EN, so the core then idles as disabled. In a cycle without a write nothing
changes but the ports and the inputs to come. -/
def Obligations.QuiescentCoreStaysQuiescent : Prop :=
  ∀ s : State, s.en = true → fullFlag s = false → s.pend = 0 → (nextInput s).rst = false →
    transferred s = [] → ∃ t, step s = .next t ∧
      t.seeks = s.seeks ∧ t.pfail = s.pfail ∧ t.psucc = s.psucc ∧ t.progress = s.progress ∧
      t.fill = s.fill ∧ t.pend = 0 ∧ t.head = s.head ∧ t.ring = s.ring ∧ t.out = s.out ∧
      t.schema = s.schema ∧ t.sv = s.sv ∧ fullFlag t = false ∧
      (¬writesWord s 2 false → t.en = true ∧ coreOp t = .coreIdle .nothingPending) ∧
      (writesWord s 2 false → t.en = false ∧ coreOp t = .coreIdle .disabled) ∧
      ((nextInput s).busReq ≠ 2 →
        t = { s with inReady := t.inReady, recValid := t.recValid, rdata := t.rdata, env := s.env.tail })
end

