-- ==== Sys2Proof/Laws/Decode.lean ====
section
/-! SUPPORT. Laws of the decoder: the fields of a word, what each channel's word decodes to, the
register map read back, and that the selector table covers every selector. -/

namespace Sys2Proof

@[simp] theorem twChannel_makeWord (c : BitVec 2) (a : BitVec 12) (d : Word) :
    twChannel (makeWord c a d) = c := by
  unfold twChannel makeWord; ext i hi; simp; grind

@[simp] theorem twAddr_makeWord (c : BitVec 2) (a : BitVec 12) (d : Word) :
    twAddr (makeWord c a d) = a := by
  unfold twAddr makeWord; ext i hi; simp; grind

@[simp] theorem twData_makeWord (c : BitVec 2) (a : BitVec 12) (d : Word) :
    twData (makeWord c a d) = d := by
  unfold twData makeWord; ext i hi; simp; grind

/-- A word is made of its three fields. -/
theorem makeWord_fields (tw : BitVec 46) : makeWord (twChannel tw) (twAddr tw) (twData tw) = tw := by
  unfold makeWord twChannel twAddr twData; ext i hi; simp; grind

/-- A word with CH = 01 is the bus read of its address. -/
theorem decodeTW_read (p : Params) (a : BitVec 12) (d : Word) :
    decodeTW p (makeWord 1 a d) = .ok (decodeBus p false a d) := by
  unfold decodeTW; rw [twChannel_makeWord, twAddr_makeWord, twData_makeWord]; rfl

/-- A word with CH = 10 is the bus write of its data to its address. -/
theorem decodeTW_write (p : Params) (a : BitVec 12) (d : Word) :
    decodeTW p (makeWord 2 a d) = .ok (decodeBus p true a d) := by
  unfold decodeTW; rw [twChannel_makeWord, twAddr_makeWord, twData_makeWord]; rfl

theorem selectorBits_of_setWidth (sel : BitVec 7) :
    (sel.setWidth 32).extractLsb' 7 25 = 0 ∧ (sel.setWidth 32).extractLsb' 0 7 = sel := by
  revert sel; decide

theorem byteBits_of_setWidth (b : Byte) :
    (b.setWidth 32).extractLsb' 8 24 = 0 ∧ (b.setWidth 32).extractLsb' 0 8 = b := by
  revert b; decide

/-- The word of a selector decodes to the action the selector names. -/
theorem decodeTW_core (p : Params) (sel : BitVec 7) : decodeTW p (coreWord sel) = .ok (decodeCore sel) := by
  obtain ⟨h0, h1⟩ := selectorBits_of_setWidth sel
  unfold decodeTW coreWord
  rw [twChannel_makeWord, twAddr_makeWord, twData_makeWord]
  simp only [h0, h1, and_self, if_true]
  rfl

/-- The word of a pushed byte decodes to its push. -/
theorem decodeTW_push (p : Params) (b : Byte) : decodeTW p (makeWord 3 0 (b.setWidth 32)) = .ok (.push b) := by
  obtain ⟨h0, h1⟩ := byteBits_of_setWidth b
  unfold decodeTW
  rw [twChannel_makeWord, twAddr_makeWord, twData_makeWord]
  simp only [h0, h1, and_self, if_true]
  rfl

/-- A word address with the low address bits 0 is read back by the division. -/
theorem wordAddress_div (w : BitVec 10) : (w ++ 0#2).toNat / 4 = w.toNat := by
  revert w; decide

/-- Past the single registers the map is the four windows and the unmapped rest. -/
theorem locate_window (p : Params) {n : Nat} (hn : 14 ≤ n) : locate p n =
    if 16 ≤ n ∧ n < 32 ∧ n - 16 < p.startWords then .start (.ofNat 4 (n - 16))
    else if 32 ≤ n ∧ n < 64 ∧ n - 32 < p.maxFields then .field (.ofNat 5 (n - 32))
    else if 64 ≤ n ∧ n < 128 ∧ n - 64 < p.recWords then .recRaw (.ofNat 6 (n - 64))
    else if 256 ≤ n ∧ n < 512 ∧ n - 256 < p.maxPayload then .recElem (.ofNat 8 (n - 256))
    else .unmapped (.ofNat 10 n) := by
  unfold locate
  split <;> first | omega | rfl

/-- An implemented START word is found at its address; so too the other windows below. -/
theorem locate_start (p : Params) {w : BitVec 4} (h : w.toNat < p.startWords) :
    locate p (Reg.start w).word.toNat = .start w := by
  have hw := w.isLt
  have e : (Reg.start w).word.toNat = 16 + w.toNat := by simp [Reg.word]; omega
  rw [e, locate_window p (by omega), if_pos ⟨by omega, by omega, by omega⟩]
  simp

theorem locate_field (p : Params) {i : BitVec 5} (h : i.toNat < p.maxFields) :
    locate p (Reg.field i).word.toNat = .field i := by
  have hi := i.isLt
  have e : (Reg.field i).word.toNat = 32 + i.toNat := by simp [Reg.word]; omega
  rw [e, locate_window p (by omega), if_neg (by omega), if_pos ⟨by omega, by omega, by omega⟩]
  simp

theorem locate_recRaw (p : Params) {w : BitVec 6} (h : w.toNat < p.recWords) :
    locate p (Reg.recRaw w).word.toNat = .recRaw w := by
  have hw := w.isLt
  have e : (Reg.recRaw w).word.toNat = 64 + w.toNat := by simp [Reg.word]; omega
  rw [e, locate_window p (by omega), if_neg (by omega), if_neg (by omega),
    if_pos ⟨by omega, by omega, by omega⟩]
  simp

theorem locate_recElem (p : Params) {k : BitVec 8} (h : k.toNat < p.maxPayload) :
    locate p (Reg.recElem k).word.toNat = .recElem k := by
  have hk := k.isLt
  have e : (Reg.recElem k).word.toNat = 256 + k.toNat := by simp [Reg.word]; omega
  rw [e, locate_window p (by omega), if_neg (by omega), if_neg (by omega), if_neg (by omega),
    if_pos ⟨by omega, by omega, by omega⟩]
  simp

/-- An unmapped word address is found as itself. -/
theorem locate_unmapped (p : Params) {a : BitVec 10} (h : unmappedWord p a.toNat = true) :
    locate p (Reg.unmapped a).word.toNat = .unmapped a := by
  simp only [unmappedWord, Bool.or_eq_true, Bool.and_eq_true, beq_iff_eq, decide_eq_true_eq] at h
  rw [show (Reg.unmapped a).word = a from rfl, locate_window p (by omega), if_neg (by omega),
    if_neg (by omega), if_neg (by omega), if_neg (by omega)]
  simp

/-- Every selector hits exactly the row whose action it decodes to: some row hits. -/
theorem coreTable_covers (sel : BitVec 7) : ∃ r ∈ coreTable, r.hits sel = true ∧ decodeCore sel = r.action := by
  revert sel; decide

/-- The window of a system address inside FSYNC's 4 KiB, and none outside it. -/
theorem windowOffset_at (o : BitVec 12) : windowOffset (Config.baseAddr + o.toNat) = some o := by
  have ho := o.isLt
  unfold windowOffset
  rw [if_pos ⟨by omega, by omega⟩]
  simp

end Sys2Proof
end

