-- ==== Sys2Proof/Laws/Memory.lean ====
section
/-! SUPPORT. Laws of the byte stores: what a write and a copy leave to be read, and that they keep the
canonical form and the size. -/

namespace Sys2Proof.Machine

@[simp] theorem Memory.read_nil (a : Nat) : Memory.read [] a = unwrittenByte := rfl

theorem Memory.read_cons (x : Nat) (v : Byte) (m : Memory) (a : Nat) :
    Memory.read ((x, v) :: m) a = if x = a then v else Memory.read m a := rfl

/-- A canonical store from `lo` on lists nothing below `lo`. -/
theorem Memory.read_below {m : Memory} {lo a : Nat} (h : Memory.wfFrom lo m = true) (ha : a < lo) :
    Memory.read m a = unwrittenByte := by
  induction m generalizing lo with
  | nil => rfl
  | cons c m ih =>
    obtain ⟨x, v⟩ := c
    simp only [Memory.wfFrom, Bool.and_eq_true, decide_eq_true_eq] at h
    obtain ⟨⟨hx, -⟩, hm⟩ := h
    rw [Memory.read_cons, if_neg (by omega), ih hm (by omega)]

theorem Memory.wfFrom_mono {m : Memory} {lo lo' : Nat} (h : Memory.wfFrom lo m = true) (hl : lo' ≤ lo) :
    Memory.wfFrom lo' m = true := by
  cases m with
  | nil => rfl
  | cons c m =>
    obtain ⟨x, v⟩ := c
    simp only [Memory.wfFrom, Bool.and_eq_true, decide_eq_true_eq] at h ⊢
    exact ⟨⟨by omega, h.1.2⟩, h.2⟩

theorem Memory.wfFrom_write {m : Memory} {lo a : Nat} (b : Byte) (h : Memory.wfFrom lo m = true)
    (ha : lo ≤ a) : Memory.wfFrom lo (Memory.write m a b) = true := by
  induction m generalizing lo with
  | nil => unfold Memory.write; split <;> simp_all [Memory.wfFrom]
  | cons c m ih =>
    obtain ⟨x, v⟩ := c
    have h' := h
    simp only [Memory.wfFrom, Bool.and_eq_true, decide_eq_true_eq] at h
    obtain ⟨⟨hx, hv⟩, hm⟩ := h
    unfold Memory.write
    split
    · split
      · exact h'
      · simp_all [Memory.wfFrom]
    · split
      · split
        · exact Memory.wfFrom_mono hm (by omega)
        · simp_all [Memory.wfFrom]
      · simp only [Memory.wfFrom, Bool.and_eq_true, decide_eq_true_eq]
        exact ⟨⟨hx, hv⟩, ih hm (by omega)⟩

/-- A write keeps the canonical form. -/
theorem Memory.wf_write {m : Memory} (a : Nat) (b : Byte) (h : Memory.wf m = true) :
    Memory.wf (Memory.write m a b) = true :=
  Memory.wfFrom_write b h (Nat.zero_le a)

theorem Memory.read_write_from {m : Memory} {lo : Nat} (a : Nat) (b : Byte) (c : Nat)
    (h : Memory.wfFrom lo m = true) :
    Memory.read (Memory.write m a b) c = if c = a then b else Memory.read m c := by
  induction m generalizing lo with
  | nil => unfold Memory.write; split <;> grind [Memory.read]
  | cons e m ih =>
    obtain ⟨x, v⟩ := e
    simp only [Memory.wfFrom, Bool.and_eq_true, decide_eq_true_eq] at h
    obtain ⟨⟨hx, hv⟩, hm⟩ := h
    have hb := fun n (hn : n < x + 1) => Memory.read_below hm hn
    unfold Memory.write
    split
    · split <;> grind [Memory.read]
    · split
      · split <;> grind [Memory.read]
      · rw [Memory.read_cons, Memory.read_cons, ih hm]
        grind

/-- Reading after a write: the byte written at its index, the byte as before everywhere else. -/
theorem Memory.read_write {m : Memory} (a : Nat) (b : Byte) (c : Nat) (h : Memory.wf m = true) :
    Memory.read (Memory.write m a b) c = if c = a then b else Memory.read m c :=
  Memory.read_write_from a b c h

theorem Memory.within_cons (x : Nat) (v : Byte) (m : Memory) (n : Nat) :
    Memory.within ((x, v) :: m) n = (decide (x < n) && Memory.within m n) := rfl

/-- A write below the size keeps every index below it. -/
theorem Memory.within_write {m : Memory} {n : Nat} (a : Nat) (b : Byte) (h : Memory.within m n = true)
    (ha : a < n) : Memory.within (Memory.write m a b) n = true := by
  induction m with
  | nil => unfold Memory.write; split <;> simp_all [Memory.within]
  | cons e m ih =>
    obtain ⟨x, v⟩ := e
    have hx : x < n ∧ Memory.within m n = true := by
      rw [Memory.within_cons] at h
      simpa only [Bool.and_eq_true, decide_eq_true_eq] using h
    have hcons : ∀ (y : Nat) (w : Byte) (l : Memory), y < n → Memory.within l n = true →
        Memory.within ((y, w) :: l) n = true := fun y w l hy hl => by
      rw [Memory.within_cons, hl, decide_eq_true hy, Bool.and_true]
    unfold Memory.write
    split
    · split
      · exact h
      · exact hcons a b _ ha h
    · split
      · split
        · exact hx.2
        · exact hcons a b _ ha hx.2
      · exact hcons x v _ hx.1 (ih hx.2)

/-- Two canonical stores that read alike are equal data. -/
theorem Memory.ext_from {m m' : Memory} {lo : Nat} (h : Memory.wfFrom lo m = true)
    (h' : Memory.wfFrom lo m' = true) (he : ∀ a, Memory.read m a = Memory.read m' a) : m = m' := by
  induction m generalizing lo m' with
  | nil =>
    cases m' with
    | nil => rfl
    | cons e m' =>
      obtain ⟨x, v⟩ := e
      simp only [Memory.wfFrom, Bool.and_eq_true, bne_iff_ne] at h'
      have := he x
      grind [Memory.read]
  | cons e m ih =>
    obtain ⟨x, v⟩ := e
    simp only [Memory.wfFrom, Bool.and_eq_true, bne_iff_ne, decide_eq_true_eq] at h
    obtain ⟨⟨hx, hv⟩, hm⟩ := h
    cases m' with
    | nil => have := he x; grind [Memory.read]
    | cons e' m' =>
      obtain ⟨y, w⟩ := e'
      simp only [Memory.wfFrom, Bool.and_eq_true, bne_iff_ne, decide_eq_true_eq] at h'
      obtain ⟨⟨hy, hw⟩, hm'⟩ := h'
      have hbx := fun n (hn : n < x + 1) => Memory.read_below hm hn
      have hby := fun n (hn : n < y + 1) => Memory.read_below hm' hn
      have hxy : x = y := by
        rcases Nat.lt_trichotomy x y with hlt | heq | hgt
        · have := he x; have := hby x (by omega); grind [Memory.read]
        · exact heq
        · have := he y; have := hbx y (by omega); grind [Memory.read]
      subst hxy
      have hvw : v = w := by have := he x; grind [Memory.read]
      subst hvw
      have : m = m' := by
        refine ih hm hm' (fun a => ?_)
        by_cases ha : a < x + 1
        · rw [hbx a ha, hby a ha]
        · have := he a; grind [Memory.read]
      rw [this]

/-- In canonical form, equal reads are equal stores. -/
theorem Memory.ext {m m' : Memory} (h : Memory.wf m = true) (h' : Memory.wf m' = true)
    (he : ∀ a, Memory.read m a = Memory.read m' a) : m = m' :=
  Memory.ext_from h h' he

/-! ### The copy of a payload -/

/-- What the copy of a payload leaves: OUT[k] = RingRead(k) below `n`, the rest as before, canonical. -/
theorem copyPayload_spec (s : State) (n : Nat) (h : Memory.wf s.out = true) :
    Memory.wf (copyPayload s n) = true ∧
      ∀ k, Memory.read (copyPayload s n) k = if k < n then ringRead s k else Memory.read s.out k := by
  induction n with
  | zero => exact ⟨h, fun k => by simp [copyPayload]⟩
  | succ n ih =>
    have e : copyPayload s (n + 1) = Memory.write (copyPayload s n) n (ringRead s n) := by
      simp [copyPayload, List.range_succ, List.foldl_append]
    rw [e]
    refine ⟨Memory.wf_write n _ ih.1, fun k => ?_⟩
    rw [Memory.read_write n _ k ih.1, ih.2 k]
    grind

/-- A copy within the store's size keeps every index below it. -/
theorem copyPayload_within (s : State) {n size : Nat} (h : Memory.within s.out size = true) (hn : n ≤ size) :
    Memory.within (copyPayload s n) size = true := by
  induction n with
  | zero => exact h
  | succ n ih =>
    have e : copyPayload s (n + 1) = Memory.write (copyPayload s n) n (ringRead s n) := by
      simp [copyPayload, List.range_succ, List.foldl_append]
    rw [e]
    exact Memory.within_write n _ (ih (by omega)) (by omega)

end Sys2Proof.Machine
end

