-- ==== Sys2Proof/Laws/Word.lean ====
section
/-! SUPPORT. Laws of words and tables: a concatenation as arithmetic, and the entry of a table. -/

namespace Sys2Proof

/-- The value of a concatenation: the left part counts in units of the right part's range. -/
theorem toNat_append_add {m n : Nat} (x : BitVec m) (y : BitVec n) :
    (x ++ y).toNat = x.toNat * 2 ^ n + y.toNat := by
  rw [BitVec.toNat_append, ← Nat.shiftLeft_add_eq_or_of_lt y.isLt, Nat.shiftLeft_eq]

/-- The value of a flag as one bit. -/
theorem toNat_ofBool_eq (b : Bool) : (BitVec.ofBool b).toNat = b.toNat := by
  cases b <;> rfl

/-- Entry `i` of a table. -/
@[simp] theorem table_getElem? {α : Type} (n : Nat) (f : Nat → α) (i : Nat) :
    (table n f)[i]? = if i < n then some (f i) else none := by
  unfold table
  by_cases h : i < n <;> simp [h]

/-- Entry `i` of a table, within its bound. -/
@[simp] theorem table_getElem {α : Type} (n : Nat) (f : Nat → α) (i : Nat) (h : i < n) :
    (table n f)[i] = f i := by
  simp [table]

end Sys2Proof
end

