-- ==== Sys2Proof/Laws/Operands.lean ====
section
/-! SUPPORT. Laws of the operand forms: the size and extension of each wire encoding (30_encoding.md
R113), the assembly of two and four bytes (44_record_output.md R282), and when two extensions of a byte
agree (43_validator.md R250). -/

namespace Sys2Proof.Machine

/-! ### Sizes and extensions, one row of R113 each -/

@[simp] theorem encSize_raw8 : encSize 0 = 1 := rfl
@[simp] theorem encSize_uint8 : encSize 1 = 1 := rfl
@[simp] theorem encSize_sint8 : encSize 2 = 1 := rfl
@[simp] theorem encSize_uint16 : encSize 3 = 2 := rfl
@[simp] theorem encSize_sint16 : encSize 4 = 2 := rfl
@[simp] theorem encSize_uint32 : encSize 5 = 4 := rfl
@[simp] theorem encSize_sint32 : encSize 6 = 4 := rfl
@[simp] theorem encSize_float32 : encSize 7 = 4 := rfl

@[simp] theorem extendElem_raw8 (u : Nat) : extendElem 0 u = zeroExtendBytes 1 u := rfl
@[simp] theorem extendElem_uint8 (u : Nat) : extendElem 1 u = zeroExtendBytes 1 u := rfl
@[simp] theorem extendElem_sint8 (u : Nat) : extendElem 2 u = signExtendBytes 1 u := rfl
@[simp] theorem extendElem_uint16 (u : Nat) : extendElem 3 u = zeroExtendBytes 2 u := rfl
@[simp] theorem extendElem_sint16 (u : Nat) : extendElem 4 u = signExtendBytes 2 u := rfl
@[simp] theorem extendElem_uint32 (u : Nat) : extendElem 5 u = .ofNat 32 u := rfl
@[simp] theorem extendElem_sint32 (u : Nat) : extendElem 6 u = .ofNat 32 u := rfl
@[simp] theorem extendElem_float32 (u : Nat) : extendElem 7 u = .ofNat 32 u := rfl

/-- A known encoding has 1 to 4 bytes. -/
theorem encSize_known {e : BitVec 4} (h : e.toNat < 8) : 1 ≤ encSize e ∧ encSize e ≤ 4 := by
  revert e; decide

/-- The encodings of one byte are RAW8, UINT8 and SINT8. -/
theorem encSize_eq_one {e : BitVec 4} (h : encSize e = 1) : e.toNat < 3 := by
  revert e; decide

/-! ### Bytes as a word -/

/-- Two bytes, least significant first. -/
theorem ofNat_two_bytes (a b : Byte) : BitVec.ofNat 16 (a.toNat + 256 * b.toNat) = b ++ a := by
  apply BitVec.eq_of_toNat_eq
  have := a.isLt
  have := b.isLt
  rw [toNat_append_add, BitVec.toNat_ofNat]
  omega

/-- Four bytes, least significant first. -/
theorem ofNat_four_bytes (a b c d : Byte) :
    BitVec.ofNat 32 (a.toNat + 256 * (b.toNat + 256 * (c.toNat + 256 * d.toNat))) = d ++ c ++ b ++ a := by
  apply BitVec.eq_of_toNat_eq
  have := a.isLt
  have := b.isLt
  have := c.isLt
  have := d.isLt
  simp only [toNat_append_add, BitVec.toNat_ofNat]
  omega

/-- Two zero-extended bytes agree exactly when the bytes do. -/
theorem zeroExtend_inj (x y : Byte) : y.zeroExtend 32 = x.zeroExtend 32 ↔ y = x := by
  constructor
  · intro h
    have := congrArg BitVec.toNat h
    have := x.isLt
    have := y.isLt
    apply BitVec.eq_of_toNat_eq
    simp at *
    omega
  · rintro rfl; rfl

/-- A sign-extended byte is a zero-extended one exactly when the bytes agree and are below 128. -/
theorem signExtend_eq_zeroExtend (x y : Byte) :
    y.signExtend 32 = x.zeroExtend 32 ↔ y = x ∧ y.toNat < 128 := by
  have hmsb : y.msb = decide (128 ≤ y.toNat) := by simp [BitVec.msb_eq_decide]
  by_cases hm : 128 ≤ y.toNat
  · constructor
    · intro h
      have h' := congrArg BitVec.toNat h
      rw [BitVec.toNat_signExtend, hmsb] at h'
      have := x.isLt
      have := y.isLt
      simp [hm] at h'
      omega
    · omega
  · rw [BitVec.signExtend_eq_setWidth_of_msb_false (by simp [hmsb, hm])]
    rw [show (BitVec.setWidth 32 y = BitVec.zeroExtend 32 x ↔ y = x) from zeroExtend_inj x y]
    exact ⟨fun h => ⟨h, by omega⟩, fun h => h.1⟩

/-- The exclusive-or of two bytes is 0 exactly when they agree. -/
theorem xor_eq_zero_iff_eq (x y : Byte) : x ^^^ y = 0 ↔ y = x := by
  constructor
  · intro h
    have := congrArg (fun z => x ^^^ z) h
    simp only [← BitVec.xor_assoc, BitVec.xor_self] at this
    simpa using this
  · rintro rfl; simp

end Sys2Proof.Machine
end

