-- ==== Sys2Proof/Laws/State.lean ====
section
/-! SUPPORT. What each named update leaves in each field of the state: one lemma per field per update,
true by rfl, so that no proof unfolds a record update. -/

namespace Sys2Proof.Machine

/-! ### takeInput -/

@[simp] theorem takeInput_params (s : State) : (takeInput s).params = s.params := rfl
@[simp] theorem takeInput_cfg (s : State) : (takeInput s).cfg = s.cfg := rfl
@[simp] theorem takeInput_start (s : State) : (takeInput s).start = s.start := rfl
@[simp] theorem takeInput_field (s : State) : (takeInput s).field = s.field := rfl
@[simp] theorem takeInput_en (s : State) : (takeInput s).en = s.en := rfl
@[simp] theorem takeInput_sv (s : State) : (takeInput s).sv = s.sv := rfl
@[simp] theorem takeInput_errCode (s : State) : (takeInput s).errCode = s.errCode := rfl
@[simp] theorem takeInput_errFidx (s : State) : (takeInput s).errFidx = s.errFidx := rfl
@[simp] theorem takeInput_werr (s : State) : (takeInput s).werr = s.werr := rfl
@[simp] theorem takeInput_schema (s : State) : (takeInput s).schema = s.schema := rfl
@[simp] theorem takeInput_progress (s : State) : (takeInput s).progress = s.progress := rfl
@[simp] theorem takeInput_ring (s : State) : (takeInput s).ring = s.ring := rfl
@[simp] theorem takeInput_head (s : State) : (takeInput s).head = s.head := rfl
@[simp] theorem takeInput_fill (s : State) : (takeInput s).fill = s.fill := rfl
@[simp] theorem takeInput_pend (s : State) : (takeInput s).pend = s.pend := rfl
@[simp] theorem takeInput_out (s : State) : (takeInput s).out = s.out := rfl
@[simp] theorem takeInput_outValid (s : State) : (takeInput s).outValid = s.outValid := rfl
@[simp] theorem takeInput_seeks (s : State) : (takeInput s).seeks = s.seeks := rfl
@[simp] theorem takeInput_pfail (s : State) : (takeInput s).pfail = s.pfail := rfl
@[simp] theorem takeInput_psucc (s : State) : (takeInput s).psucc = s.psucc := rfl
@[simp] theorem takeInput_inReady (s : State) : (takeInput s).inReady = s.inReady := rfl
@[simp] theorem takeInput_recValid (s : State) : (takeInput s).recValid = s.recValid := rfl
@[simp] theorem takeInput_rdata (s : State) : (takeInput s).rdata = s.rdata := rfl
@[simp] theorem takeInput_env (s : State) : (takeInput s).env = s.env.tail := rfl

/-! ### drivePorts -/

@[simp] theorem drivePorts_params (s : State) : (drivePorts s).params = s.params := rfl
@[simp] theorem drivePorts_cfg (s : State) : (drivePorts s).cfg = s.cfg := rfl
@[simp] theorem drivePorts_start (s : State) : (drivePorts s).start = s.start := rfl
@[simp] theorem drivePorts_field (s : State) : (drivePorts s).field = s.field := rfl
@[simp] theorem drivePorts_en (s : State) : (drivePorts s).en = s.en := rfl
@[simp] theorem drivePorts_sv (s : State) : (drivePorts s).sv = s.sv := rfl
@[simp] theorem drivePorts_errCode (s : State) : (drivePorts s).errCode = s.errCode := rfl
@[simp] theorem drivePorts_errFidx (s : State) : (drivePorts s).errFidx = s.errFidx := rfl
@[simp] theorem drivePorts_werr (s : State) : (drivePorts s).werr = s.werr := rfl
@[simp] theorem drivePorts_schema (s : State) : (drivePorts s).schema = s.schema := rfl
@[simp] theorem drivePorts_progress (s : State) : (drivePorts s).progress = s.progress := rfl
@[simp] theorem drivePorts_ring (s : State) : (drivePorts s).ring = s.ring := rfl
@[simp] theorem drivePorts_head (s : State) : (drivePorts s).head = s.head := rfl
@[simp] theorem drivePorts_fill (s : State) : (drivePorts s).fill = s.fill := rfl
@[simp] theorem drivePorts_pend (s : State) : (drivePorts s).pend = s.pend := rfl
@[simp] theorem drivePorts_out (s : State) : (drivePorts s).out = s.out := rfl
@[simp] theorem drivePorts_outValid (s : State) : (drivePorts s).outValid = s.outValid := rfl
@[simp] theorem drivePorts_seeks (s : State) : (drivePorts s).seeks = s.seeks := rfl
@[simp] theorem drivePorts_pfail (s : State) : (drivePorts s).pfail = s.pfail := rfl
@[simp] theorem drivePorts_psucc (s : State) : (drivePorts s).psucc = s.psucc := rfl
@[simp] theorem drivePorts_inReady (s : State) : (drivePorts s).inReady = readyFlag s := rfl
@[simp] theorem drivePorts_recValid (s : State) : (drivePorts s).recValid = s.outValid := rfl
@[simp] theorem drivePorts_rdata (s : State) : (drivePorts s).rdata = 0 := rfl
@[simp] theorem drivePorts_env (s : State) : (drivePorts s).env = s.env := rfl

/-! ### setRdata -/

@[simp] theorem setRdata_params (s : State) (v : Word) : (setRdata s v).params = s.params := rfl
@[simp] theorem setRdata_cfg (s : State) (v : Word) : (setRdata s v).cfg = s.cfg := rfl
@[simp] theorem setRdata_start (s : State) (v : Word) : (setRdata s v).start = s.start := rfl
@[simp] theorem setRdata_field (s : State) (v : Word) : (setRdata s v).field = s.field := rfl
@[simp] theorem setRdata_en (s : State) (v : Word) : (setRdata s v).en = s.en := rfl
@[simp] theorem setRdata_sv (s : State) (v : Word) : (setRdata s v).sv = s.sv := rfl
@[simp] theorem setRdata_errCode (s : State) (v : Word) : (setRdata s v).errCode = s.errCode := rfl
@[simp] theorem setRdata_errFidx (s : State) (v : Word) : (setRdata s v).errFidx = s.errFidx := rfl
@[simp] theorem setRdata_werr (s : State) (v : Word) : (setRdata s v).werr = s.werr := rfl
@[simp] theorem setRdata_schema (s : State) (v : Word) : (setRdata s v).schema = s.schema := rfl
@[simp] theorem setRdata_progress (s : State) (v : Word) : (setRdata s v).progress = s.progress := rfl
@[simp] theorem setRdata_ring (s : State) (v : Word) : (setRdata s v).ring = s.ring := rfl
@[simp] theorem setRdata_head (s : State) (v : Word) : (setRdata s v).head = s.head := rfl
@[simp] theorem setRdata_fill (s : State) (v : Word) : (setRdata s v).fill = s.fill := rfl
@[simp] theorem setRdata_pend (s : State) (v : Word) : (setRdata s v).pend = s.pend := rfl
@[simp] theorem setRdata_out (s : State) (v : Word) : (setRdata s v).out = s.out := rfl
@[simp] theorem setRdata_outValid (s : State) (v : Word) : (setRdata s v).outValid = s.outValid := rfl
@[simp] theorem setRdata_seeks (s : State) (v : Word) : (setRdata s v).seeks = s.seeks := rfl
@[simp] theorem setRdata_pfail (s : State) (v : Word) : (setRdata s v).pfail = s.pfail := rfl
@[simp] theorem setRdata_psucc (s : State) (v : Word) : (setRdata s v).psucc = s.psucc := rfl
@[simp] theorem setRdata_inReady (s : State) (v : Word) : (setRdata s v).inReady = s.inReady := rfl
@[simp] theorem setRdata_recValid (s : State) (v : Word) : (setRdata s v).recValid = s.recValid := rfl
@[simp] theorem setRdata_rdata (s : State) (v : Word) : (setRdata s v).rdata = v := rfl
@[simp] theorem setRdata_env (s : State) (v : Word) : (setRdata s v).env = s.env := rfl

/-! ### ignoredCfgWrite -/

@[simp] theorem ignoredCfgWrite_params (s : State) : (ignoredCfgWrite s).params = s.params := rfl
@[simp] theorem ignoredCfgWrite_cfg (s : State) : (ignoredCfgWrite s).cfg = s.cfg := rfl
@[simp] theorem ignoredCfgWrite_start (s : State) : (ignoredCfgWrite s).start = s.start := rfl
@[simp] theorem ignoredCfgWrite_field (s : State) : (ignoredCfgWrite s).field = s.field := rfl
@[simp] theorem ignoredCfgWrite_en (s : State) : (ignoredCfgWrite s).en = s.en := rfl
@[simp] theorem ignoredCfgWrite_sv (s : State) : (ignoredCfgWrite s).sv = s.sv := rfl
@[simp] theorem ignoredCfgWrite_errCode (s : State) : (ignoredCfgWrite s).errCode = s.errCode := rfl
@[simp] theorem ignoredCfgWrite_errFidx (s : State) : (ignoredCfgWrite s).errFidx = s.errFidx := rfl
@[simp] theorem ignoredCfgWrite_werr (s : State) : (ignoredCfgWrite s).werr = true := rfl
@[simp] theorem ignoredCfgWrite_schema (s : State) : (ignoredCfgWrite s).schema = s.schema := rfl
@[simp] theorem ignoredCfgWrite_progress (s : State) : (ignoredCfgWrite s).progress = s.progress := rfl
@[simp] theorem ignoredCfgWrite_ring (s : State) : (ignoredCfgWrite s).ring = s.ring := rfl
@[simp] theorem ignoredCfgWrite_head (s : State) : (ignoredCfgWrite s).head = s.head := rfl
@[simp] theorem ignoredCfgWrite_fill (s : State) : (ignoredCfgWrite s).fill = s.fill := rfl
@[simp] theorem ignoredCfgWrite_pend (s : State) : (ignoredCfgWrite s).pend = s.pend := rfl
@[simp] theorem ignoredCfgWrite_out (s : State) : (ignoredCfgWrite s).out = s.out := rfl
@[simp] theorem ignoredCfgWrite_outValid (s : State) : (ignoredCfgWrite s).outValid = s.outValid := rfl
@[simp] theorem ignoredCfgWrite_seeks (s : State) : (ignoredCfgWrite s).seeks = s.seeks := rfl
@[simp] theorem ignoredCfgWrite_pfail (s : State) : (ignoredCfgWrite s).pfail = s.pfail := rfl
@[simp] theorem ignoredCfgWrite_psucc (s : State) : (ignoredCfgWrite s).psucc = s.psucc := rfl
@[simp] theorem ignoredCfgWrite_inReady (s : State) : (ignoredCfgWrite s).inReady = s.inReady := rfl
@[simp] theorem ignoredCfgWrite_recValid (s : State) : (ignoredCfgWrite s).recValid = s.recValid := rfl
@[simp] theorem ignoredCfgWrite_rdata (s : State) : (ignoredCfgWrite s).rdata = s.rdata := rfl
@[simp] theorem ignoredCfgWrite_env (s : State) : (ignoredCfgWrite s).env = s.env := rfl

/-! ### raiseConfigError -/

@[simp] theorem raiseConfigError_params (s : State) (c : BitVec 4) (f : BitVec 5) : (raiseConfigError s c f).params = s.params := rfl
@[simp] theorem raiseConfigError_cfg (s : State) (c : BitVec 4) (f : BitVec 5) : (raiseConfigError s c f).cfg = s.cfg := rfl
@[simp] theorem raiseConfigError_start (s : State) (c : BitVec 4) (f : BitVec 5) : (raiseConfigError s c f).start = s.start := rfl
@[simp] theorem raiseConfigError_field (s : State) (c : BitVec 4) (f : BitVec 5) : (raiseConfigError s c f).field = s.field := rfl
@[simp] theorem raiseConfigError_en (s : State) (c : BitVec 4) (f : BitVec 5) : (raiseConfigError s c f).en = s.en := rfl
@[simp] theorem raiseConfigError_sv (s : State) (c : BitVec 4) (f : BitVec 5) : (raiseConfigError s c f).sv = s.sv := rfl
@[simp] theorem raiseConfigError_errCode (s : State) (c : BitVec 4) (f : BitVec 5) : (raiseConfigError s c f).errCode = c := rfl
@[simp] theorem raiseConfigError_errFidx (s : State) (c : BitVec 4) (f : BitVec 5) : (raiseConfigError s c f).errFidx = f := rfl
@[simp] theorem raiseConfigError_werr (s : State) (c : BitVec 4) (f : BitVec 5) : (raiseConfigError s c f).werr = s.werr := rfl
@[simp] theorem raiseConfigError_schema (s : State) (c : BitVec 4) (f : BitVec 5) : (raiseConfigError s c f).schema = s.schema := rfl
@[simp] theorem raiseConfigError_progress (s : State) (c : BitVec 4) (f : BitVec 5) : (raiseConfigError s c f).progress = s.progress := rfl
@[simp] theorem raiseConfigError_ring (s : State) (c : BitVec 4) (f : BitVec 5) : (raiseConfigError s c f).ring = s.ring := rfl
@[simp] theorem raiseConfigError_head (s : State) (c : BitVec 4) (f : BitVec 5) : (raiseConfigError s c f).head = s.head := rfl
@[simp] theorem raiseConfigError_fill (s : State) (c : BitVec 4) (f : BitVec 5) : (raiseConfigError s c f).fill = s.fill := rfl
@[simp] theorem raiseConfigError_pend (s : State) (c : BitVec 4) (f : BitVec 5) : (raiseConfigError s c f).pend = s.pend := rfl
@[simp] theorem raiseConfigError_out (s : State) (c : BitVec 4) (f : BitVec 5) : (raiseConfigError s c f).out = s.out := rfl
@[simp] theorem raiseConfigError_outValid (s : State) (c : BitVec 4) (f : BitVec 5) : (raiseConfigError s c f).outValid = s.outValid := rfl
@[simp] theorem raiseConfigError_seeks (s : State) (c : BitVec 4) (f : BitVec 5) : (raiseConfigError s c f).seeks = s.seeks := rfl
@[simp] theorem raiseConfigError_pfail (s : State) (c : BitVec 4) (f : BitVec 5) : (raiseConfigError s c f).pfail = s.pfail := rfl
@[simp] theorem raiseConfigError_psucc (s : State) (c : BitVec 4) (f : BitVec 5) : (raiseConfigError s c f).psucc = s.psucc := rfl
@[simp] theorem raiseConfigError_inReady (s : State) (c : BitVec 4) (f : BitVec 5) : (raiseConfigError s c f).inReady = s.inReady := rfl
@[simp] theorem raiseConfigError_recValid (s : State) (c : BitVec 4) (f : BitVec 5) : (raiseConfigError s c f).recValid = s.recValid := rfl
@[simp] theorem raiseConfigError_rdata (s : State) (c : BitVec 4) (f : BitVec 5) : (raiseConfigError s c f).rdata = s.rdata := rfl
@[simp] theorem raiseConfigError_env (s : State) (c : BitVec 4) (f : BitVec 5) : (raiseConfigError s c f).env = s.env := rfl

/-! ### stopDecoder -/

@[simp] theorem stopDecoder_params (s : State) : (stopDecoder s).params = s.params := rfl
@[simp] theorem stopDecoder_cfg (s : State) : (stopDecoder s).cfg = s.cfg := rfl
@[simp] theorem stopDecoder_start (s : State) : (stopDecoder s).start = s.start := rfl
@[simp] theorem stopDecoder_field (s : State) : (stopDecoder s).field = s.field := rfl
@[simp] theorem stopDecoder_en (s : State) : (stopDecoder s).en = false := rfl
@[simp] theorem stopDecoder_sv (s : State) : (stopDecoder s).sv = s.sv := rfl
@[simp] theorem stopDecoder_errCode (s : State) : (stopDecoder s).errCode = s.errCode := rfl
@[simp] theorem stopDecoder_errFidx (s : State) : (stopDecoder s).errFidx = s.errFidx := rfl
@[simp] theorem stopDecoder_werr (s : State) : (stopDecoder s).werr = s.werr := rfl
@[simp] theorem stopDecoder_schema (s : State) : (stopDecoder s).schema = s.schema := rfl
@[simp] theorem stopDecoder_progress (s : State) : (stopDecoder s).progress = s.progress := rfl
@[simp] theorem stopDecoder_ring (s : State) : (stopDecoder s).ring = s.ring := rfl
@[simp] theorem stopDecoder_head (s : State) : (stopDecoder s).head = s.head := rfl
@[simp] theorem stopDecoder_fill (s : State) : (stopDecoder s).fill = s.fill := rfl
@[simp] theorem stopDecoder_pend (s : State) : (stopDecoder s).pend = s.pend := rfl
@[simp] theorem stopDecoder_out (s : State) : (stopDecoder s).out = s.out := rfl
@[simp] theorem stopDecoder_outValid (s : State) : (stopDecoder s).outValid = s.outValid := rfl
@[simp] theorem stopDecoder_seeks (s : State) : (stopDecoder s).seeks = s.seeks := rfl
@[simp] theorem stopDecoder_pfail (s : State) : (stopDecoder s).pfail = s.pfail := rfl
@[simp] theorem stopDecoder_psucc (s : State) : (stopDecoder s).psucc = s.psucc := rfl
@[simp] theorem stopDecoder_inReady (s : State) : (stopDecoder s).inReady = s.inReady := rfl
@[simp] theorem stopDecoder_recValid (s : State) : (stopDecoder s).recValid = s.recValid := rfl
@[simp] theorem stopDecoder_rdata (s : State) : (stopDecoder s).rdata = s.rdata := rfl
@[simp] theorem stopDecoder_env (s : State) : (stopDecoder s).env = s.env := rfl

/-! ### dropHead -/

@[simp] theorem dropHead_params (s : State) : (dropHead s).params = s.params := rfl
@[simp] theorem dropHead_cfg (s : State) : (dropHead s).cfg = s.cfg := rfl
@[simp] theorem dropHead_start (s : State) : (dropHead s).start = s.start := rfl
@[simp] theorem dropHead_field (s : State) : (dropHead s).field = s.field := rfl
@[simp] theorem dropHead_en (s : State) : (dropHead s).en = s.en := rfl
@[simp] theorem dropHead_sv (s : State) : (dropHead s).sv = s.sv := rfl
@[simp] theorem dropHead_errCode (s : State) : (dropHead s).errCode = s.errCode := rfl
@[simp] theorem dropHead_errFidx (s : State) : (dropHead s).errFidx = s.errFidx := rfl
@[simp] theorem dropHead_werr (s : State) : (dropHead s).werr = s.werr := rfl
@[simp] theorem dropHead_schema (s : State) : (dropHead s).schema = s.schema := rfl
@[simp] theorem dropHead_progress (s : State) : (dropHead s).progress = s.progress := rfl
@[simp] theorem dropHead_ring (s : State) : (dropHead s).ring = s.ring := rfl
@[simp] theorem dropHead_head (s : State) : (dropHead s).head = ringIndex s 1 := rfl
@[simp] theorem dropHead_fill (s : State) : (dropHead s).fill = s.fill := rfl
@[simp] theorem dropHead_pend (s : State) : (dropHead s).pend = s.pend - 1 := rfl
@[simp] theorem dropHead_out (s : State) : (dropHead s).out = s.out := rfl
@[simp] theorem dropHead_outValid (s : State) : (dropHead s).outValid = s.outValid := rfl
@[simp] theorem dropHead_seeks (s : State) : (dropHead s).seeks = s.seeks := rfl
@[simp] theorem dropHead_pfail (s : State) : (dropHead s).pfail = s.pfail := rfl
@[simp] theorem dropHead_psucc (s : State) : (dropHead s).psucc = s.psucc := rfl
@[simp] theorem dropHead_inReady (s : State) : (dropHead s).inReady = s.inReady := rfl
@[simp] theorem dropHead_recValid (s : State) : (dropHead s).recValid = s.recValid := rfl
@[simp] theorem dropHead_rdata (s : State) : (dropHead s).rdata = s.rdata := rfl
@[simp] theorem dropHead_env (s : State) : (dropHead s).env = s.env := rfl

/-! ### ringWrite -/

@[simp] theorem ringWrite_params (s : State) (k : Nat) (b : Byte) : (ringWrite s k b).params = s.params := rfl
@[simp] theorem ringWrite_cfg (s : State) (k : Nat) (b : Byte) : (ringWrite s k b).cfg = s.cfg := rfl
@[simp] theorem ringWrite_start (s : State) (k : Nat) (b : Byte) : (ringWrite s k b).start = s.start := rfl
@[simp] theorem ringWrite_field (s : State) (k : Nat) (b : Byte) : (ringWrite s k b).field = s.field := rfl
@[simp] theorem ringWrite_en (s : State) (k : Nat) (b : Byte) : (ringWrite s k b).en = s.en := rfl
@[simp] theorem ringWrite_sv (s : State) (k : Nat) (b : Byte) : (ringWrite s k b).sv = s.sv := rfl
@[simp] theorem ringWrite_errCode (s : State) (k : Nat) (b : Byte) : (ringWrite s k b).errCode = s.errCode := rfl
@[simp] theorem ringWrite_errFidx (s : State) (k : Nat) (b : Byte) : (ringWrite s k b).errFidx = s.errFidx := rfl
@[simp] theorem ringWrite_werr (s : State) (k : Nat) (b : Byte) : (ringWrite s k b).werr = s.werr := rfl
@[simp] theorem ringWrite_schema (s : State) (k : Nat) (b : Byte) : (ringWrite s k b).schema = s.schema := rfl
@[simp] theorem ringWrite_progress (s : State) (k : Nat) (b : Byte) : (ringWrite s k b).progress = s.progress := rfl
@[simp] theorem ringWrite_ring (s : State) (k : Nat) (b : Byte) : (ringWrite s k b).ring = Memory.write s.ring (ringIndex s k) b := rfl
@[simp] theorem ringWrite_head (s : State) (k : Nat) (b : Byte) : (ringWrite s k b).head = s.head := rfl
@[simp] theorem ringWrite_fill (s : State) (k : Nat) (b : Byte) : (ringWrite s k b).fill = s.fill := rfl
@[simp] theorem ringWrite_pend (s : State) (k : Nat) (b : Byte) : (ringWrite s k b).pend = s.pend := rfl
@[simp] theorem ringWrite_out (s : State) (k : Nat) (b : Byte) : (ringWrite s k b).out = s.out := rfl
@[simp] theorem ringWrite_outValid (s : State) (k : Nat) (b : Byte) : (ringWrite s k b).outValid = s.outValid := rfl
@[simp] theorem ringWrite_seeks (s : State) (k : Nat) (b : Byte) : (ringWrite s k b).seeks = s.seeks := rfl
@[simp] theorem ringWrite_pfail (s : State) (k : Nat) (b : Byte) : (ringWrite s k b).pfail = s.pfail := rfl
@[simp] theorem ringWrite_psucc (s : State) (k : Nat) (b : Byte) : (ringWrite s k b).psucc = s.psucc := rfl
@[simp] theorem ringWrite_inReady (s : State) (k : Nat) (b : Byte) : (ringWrite s k b).inReady = s.inReady := rfl
@[simp] theorem ringWrite_recValid (s : State) (k : Nat) (b : Byte) : (ringWrite s k b).recValid = s.recValid := rfl
@[simp] theorem ringWrite_rdata (s : State) (k : Nat) (b : Byte) : (ringWrite s k b).rdata = s.rdata := rfl
@[simp] theorem ringWrite_env (s : State) (k : Nat) (b : Byte) : (ringWrite s k b).env = s.env := rfl

/-! ### pushByte -/

@[simp] theorem pushByte_params (s : State) (b : Byte) : (pushByte s b).params = s.params := rfl
@[simp] theorem pushByte_cfg (s : State) (b : Byte) : (pushByte s b).cfg = s.cfg := rfl
@[simp] theorem pushByte_start (s : State) (b : Byte) : (pushByte s b).start = s.start := rfl
@[simp] theorem pushByte_field (s : State) (b : Byte) : (pushByte s b).field = s.field := rfl
@[simp] theorem pushByte_en (s : State) (b : Byte) : (pushByte s b).en = s.en := rfl
@[simp] theorem pushByte_sv (s : State) (b : Byte) : (pushByte s b).sv = s.sv := rfl
@[simp] theorem pushByte_errCode (s : State) (b : Byte) : (pushByte s b).errCode = s.errCode := rfl
@[simp] theorem pushByte_errFidx (s : State) (b : Byte) : (pushByte s b).errFidx = s.errFidx := rfl
@[simp] theorem pushByte_werr (s : State) (b : Byte) : (pushByte s b).werr = s.werr := rfl
@[simp] theorem pushByte_schema (s : State) (b : Byte) : (pushByte s b).schema = s.schema := rfl
@[simp] theorem pushByte_progress (s : State) (b : Byte) : (pushByte s b).progress = s.progress := rfl
@[simp] theorem pushByte_ring (s : State) (b : Byte) : (pushByte s b).ring = Memory.write s.ring (ringTail s) b := rfl
@[simp] theorem pushByte_head (s : State) (b : Byte) : (pushByte s b).head = s.head := rfl
@[simp] theorem pushByte_fill (s : State) (b : Byte) : (pushByte s b).fill = s.fill := rfl
@[simp] theorem pushByte_pend (s : State) (b : Byte) : (pushByte s b).pend = s.pend + 1 := rfl
@[simp] theorem pushByte_out (s : State) (b : Byte) : (pushByte s b).out = s.out := rfl
@[simp] theorem pushByte_outValid (s : State) (b : Byte) : (pushByte s b).outValid = s.outValid := rfl
@[simp] theorem pushByte_seeks (s : State) (b : Byte) : (pushByte s b).seeks = s.seeks := rfl
@[simp] theorem pushByte_pfail (s : State) (b : Byte) : (pushByte s b).pfail = s.pfail := rfl
@[simp] theorem pushByte_psucc (s : State) (b : Byte) : (pushByte s b).psucc = s.psucc := rfl
@[simp] theorem pushByte_inReady (s : State) (b : Byte) : (pushByte s b).inReady = s.inReady := rfl
@[simp] theorem pushByte_recValid (s : State) (b : Byte) : (pushByte s b).recValid = s.recValid := rfl
@[simp] theorem pushByte_rdata (s : State) (b : Byte) : (pushByte s b).rdata = s.rdata := rfl
@[simp] theorem pushByte_env (s : State) (b : Byte) : (pushByte s b).env = s.env := rfl

/-! ### newDecoder -/

@[simp] theorem newDecoder_params (s : State) : (newDecoder s).params = s.params := rfl
@[simp] theorem newDecoder_cfg (s : State) : (newDecoder s).cfg = s.cfg := rfl
@[simp] theorem newDecoder_start (s : State) : (newDecoder s).start = s.start := rfl
@[simp] theorem newDecoder_field (s : State) : (newDecoder s).field = s.field := rfl
@[simp] theorem newDecoder_en (s : State) : (newDecoder s).en = true := rfl
@[simp] theorem newDecoder_sv (s : State) : (newDecoder s).sv = true := rfl
@[simp] theorem newDecoder_errCode (s : State) : (newDecoder s).errCode = 0 := rfl
@[simp] theorem newDecoder_errFidx (s : State) : (newDecoder s).errFidx = 0 := rfl
@[simp] theorem newDecoder_werr (s : State) : (newDecoder s).werr = s.werr := rfl
@[simp] theorem newDecoder_schema (s : State) : (newDecoder s).schema = latchSchema s := rfl
@[simp] theorem newDecoder_progress (s : State) : (newDecoder s).progress = 0 := rfl
@[simp] theorem newDecoder_ring (s : State) : (newDecoder s).ring = s.ring := rfl
@[simp] theorem newDecoder_head (s : State) : (newDecoder s).head = 0 := rfl
@[simp] theorem newDecoder_fill (s : State) : (newDecoder s).fill = 0 := rfl
@[simp] theorem newDecoder_pend (s : State) : (newDecoder s).pend = 0 := rfl
@[simp] theorem newDecoder_out (s : State) : (newDecoder s).out = s.out := rfl
@[simp] theorem newDecoder_outValid (s : State) : (newDecoder s).outValid = false := rfl
@[simp] theorem newDecoder_seeks (s : State) : (newDecoder s).seeks = 0 := rfl
@[simp] theorem newDecoder_pfail (s : State) : (newDecoder s).pfail = 0 := rfl
@[simp] theorem newDecoder_psucc (s : State) : (newDecoder s).psucc = 0 := rfl
@[simp] theorem newDecoder_inReady (s : State) : (newDecoder s).inReady = s.inReady := rfl
@[simp] theorem newDecoder_recValid (s : State) : (newDecoder s).recValid = s.recValid := rfl
@[simp] theorem newDecoder_rdata (s : State) : (newDecoder s).rdata = s.rdata := rfl
@[simp] theorem newDecoder_env (s : State) : (newDecoder s).env = s.env := rfl

end Sys2Proof.Machine
end

