-- ==== Sys2Proof/Laws/Ops.lean ====
section
/-! SUPPORT. Laws of the shared operations: sums and searches over field indices, the tests of Check,
the latched schema with its derived quantities, the guarded write, the ring, and the counters. -/

namespace Sys2Proof.Machine

/-! ### Sums over field indices -/

@[simp] theorem sumBelow_zero (f : Nat → Nat) : sumBelow 0 f = 0 := rfl

theorem sumBelow_succ (n : Nat) (f : Nat → Nat) : sumBelow (n + 1) f = sumBelow n f + f n := by
  simp [sumBelow, List.range_succ]

theorem sumBelow_congr {n : Nat} {f g : Nat → Nat} (h : ∀ i < n, f i = g i) :
    sumBelow n f = sumBelow n g := by
  induction n with
  | zero => rfl
  | succ n ih => rw [sumBelow_succ, sumBelow_succ, ih (fun i hi => h i (by omega)), h n (by omega)]

theorem sumBelow_le {n : Nat} {f g : Nat → Nat} (h : ∀ i < n, f i ≤ g i) :
    sumBelow n f ≤ sumBelow n g := by
  induction n with
  | zero => exact Nat.le_refl _
  | succ n ih =>
    rw [sumBelow_succ, sumBelow_succ]
    exact Nat.add_le_add (ih fun i hi => h i (by omega)) (h n (by omega))

theorem sumBelow_mono {n m : Nat} (f : Nat → Nat) (h : n ≤ m) : sumBelow n f ≤ sumBelow m f := by
  induction m with
  | zero => simp [Nat.le_zero.1 h]
  | succ m ih =>
    rcases Nat.lt_or_ge m n with h' | h'
    · have : n = m + 1 := by omega
      subst this
      exact Nat.le_refl _
    · rw [sumBelow_succ]
      exact Nat.le_trans (ih h') (Nat.le_add_right _ _)

/-! ### Searches over field indices -/

/-- The least index below `n` with the property. -/
theorem find_range_some {n i : Nat} {p : Nat → Bool} (hi : i < n) (hp : p i = true)
    (hj : ∀ j < i, p j = false) : (List.range n).find? p = some i := by
  rw [List.find?_range_eq_some]
  simp only [List.mem_range, hi, hp, true_and]
  intro j hj'
  simp [hj j hj']

theorem find_range_none {n : Nat} {p : Nat → Bool} (hj : ∀ j < n, p j = false) :
    (List.range n).find? p = none := by
  rw [List.find?_range_eq_none]
  simpa using hj

/-- No index below `n` has the property. -/
theorem filter_range_none {n : Nat} {p : Nat → Bool} (h : ∀ i < n, p i = false) :
    (List.range n).filter p = [] := by
  rw [List.filter_eq_nil_iff]
  intro a ha
  simp [h a (List.mem_range.1 ha)]

/-- Exactly one index below `n` has the property. -/
theorem filter_range_one {n q : Nat} {p : Nat → Bool} (hq : q < n) (hp : p q = true)
    (h : ∀ i < n, p i = true → i = q) : (List.range n).filter p = [q] := by
  induction n with
  | zero => omega
  | succ n ih =>
    rw [List.range_succ, List.filter_append]
    by_cases hqn : q = n
    · subst hqn
      have : (List.range q).filter p = [] := by
        refine filter_range_none fun i hi => ?_
        by_contra hc
        have := h i (by omega) (by simpa using hc)
        omega
      rw [this]
      simp [hp]
    · rw [ih (by omega) (fun i hi hpi => h i (by omega) hpi)]
      have : p n = false := by
        by_contra hc
        exact hqn (h n (by omega) (by simpa using hc)).symm
      simp [this]

/-- The two least indices below `n` with the property. -/
theorem filter_range_two {n i j : Nat} {p : Nat → Bool} (hij : i < j) (hj : j < n) (hp : p i = true)
    (hpj : p j = true) (h : ∀ k < j, p k = true → k = i) : ∃ l, (List.range n).filter p = i :: j :: l := by
  obtain ⟨m, rfl⟩ : ∃ m, n = (j + 1) + m := ⟨n - (j + 1), by omega⟩
  rw [List.range_add, List.filter_append, List.range_succ, List.filter_append, filter_range_one hij hp h]
  simp [hpj]

/-! ### The derived quantities of a schema (10_state.md R52) -/

@[simp] theorem schemaStart_derive (l : Schema) (j : Nat) : schemaStart (deriveSchema l) j = schemaStart l j := rfl
@[simp] theorem schemaCount_derive (l : Schema) (i : Nat) : schemaCount (deriveSchema l) i = schemaCount l i := rfl
@[simp] theorem schemaEnc_derive (l : Schema) (i : Nat) : schemaEnc (deriveSchema l) i = schemaEnc l i := rfl
@[simp] theorem schemaPar_derive (l : Schema) (i : Nat) : schemaPar (deriveSchema l) i = schemaPar l i := rfl
@[simp] theorem deriveSchema_nf (l : Schema) : (deriveSchema l).nf = l.nf := rfl
@[simp] theorem deriveSchema_startLen (l : Schema) : (deriveSchema l).startLen = l.startLen := rfl

/-- Deriving again changes nothing. -/
@[simp] theorem deriveSchema_idem (l : Schema) : deriveSchema (deriveSchema l) = deriveSchema l := rfl

theorem schemaFoff_derive {l : Schema} {i : Nat} (h : i < l.nf.toNat) (h32 : l.nf.toNat ≤ 32) :
    schemaFoff (deriveSchema l) i = sumBelow i (schemaBytes l) := by
  have : i < 32 := by omega
  simp [schemaFoff, deriveSchema, h, this]

theorem schemaFelem_derive {l : Schema} {i : Nat} (h : i < l.nf.toNat) (h32 : l.nf.toNat ≤ 32) :
    schemaFelem (deriveSchema l) i = sumBelow i (schemaCount l) := by
  have : i < 32 := by omega
  simp [schemaFelem, deriveSchema, h, this]

/-- The parity items: absent and 0, or those of the first field marked PAR. -/
theorem deriveSchema_parity (l : Schema) :
    ((deriveSchema l).ppres = false ∧ (∀ i < l.nf.toNat, schemaPar l i = false) ∧
      (deriveSchema l).pidx = 0 ∧ (deriveSchema l).poff = 0 ∧ (deriveSchema l).penc = 0) ∨
    ((deriveSchema l).ppres = true ∧ (deriveSchema l).pidx < l.nf.toNat ∧
      schemaPar l (deriveSchema l).pidx = true ∧
      (deriveSchema l).poff = sumBelow (deriveSchema l).pidx (schemaBytes l) ∧
      (deriveSchema l).penc = schemaEnc l (deriveSchema l).pidx) := by
  simp only [deriveSchema]
  cases hf : (List.range l.nf.toNat).find? (schemaPar l) with
  | none =>
    left
    rw [List.find?_range_eq_none] at hf
    simpa using hf
  | some q =>
    right
    rw [List.find?_range_eq_some] at hf
    simp only [List.mem_range] at hf
    simp [hf.1, hf.2.1]

/-! ### The schema a construct latches (10_state.md R51, 40_configuration.md R164) -/

@[simp] theorem latchSchema_nf (s : State) : (latchSchema s).nf = cfgNfields s.cfg := rfl
@[simp] theorem latchSchema_startLen (s : State) : (latchSchema s).startLen = cfgStartLen s.cfg := rfl
@[simp] theorem latchSchema_big (s : State) : (latchSchema s).big = cfgBig s.cfg := rfl
@[simp] theorem latchSchema_idem (s : State) : deriveSchema (latchSchema s) = latchSchema s := rfl

theorem schemaStart_latch {s : State} {j : Nat} (h : j < s.params.maxStart) (h64 : s.params.maxStart ≤ 64) :
    schemaStart (latchSchema s) j = startByte s j := by
  have : j < 64 := by omega
  simp only [latchSchema, schemaStart_derive]
  simp [schemaStart, h, this]

theorem schemaEnc_latch {s : State} {i : Nat} (h : i < s.params.maxFields) (h32 : s.params.maxFields ≤ 32) :
    schemaEnc (latchSchema s) i = fieldEnc (fieldAt s i) := by
  have : i < 32 := by omega
  simp only [latchSchema, schemaEnc_derive]
  simp [schemaEnc, h, this]

theorem schemaPar_latch {s : State} {i : Nat} (h : i < s.params.maxFields) (h32 : s.params.maxFields ≤ 32) :
    schemaPar (latchSchema s) i = fieldPar (fieldAt s i) := by
  have : i < 32 := by omega
  simp only [latchSchema, schemaPar_derive]
  simp [schemaPar, h, this]

theorem schemaCount_latch {s : State} {i : Nat} (h : i < s.params.maxFields) (h32 : s.params.maxFields ≤ 32) :
    schemaCount (latchSchema s) i = (fieldCount (fieldAt s i)).toNat := by
  have : i < 32 := by omega
  simp only [latchSchema, schemaCount_derive]
  simp [schemaCount, h, this]

theorem schemaBytes_latch {s : State} {i : Nat} (h : i < s.params.maxFields) (h32 : s.params.maxFields ≤ 32) :
    schemaBytes (latchSchema s) i = fieldBytes s i := by
  rw [schemaBytes, schemaEnc_latch h h32, schemaCount_latch h h32]
  rfl

/-! ### Construct and the guarded write -/

/-- Everything a construct can do: record the error, or start a new decoder. -/
theorem constructDecoder_cases (s : State) :
    (checkConfig s).1 ≠ 0 ∧
        constructDecoder s = { s with errCode := (checkConfig s).1, errFidx := (checkConfig s).2 } ∨
      (checkConfig s).1 = 0 ∧ constructDecoder s = newDecoder s := by
  unfold constructDecoder
  split
  rename_i code fidx h
  rw [h]
  by_cases hc : code = 0
  · exact .inr ⟨hc, by simp [hc]⟩
  · exact .inl ⟨hc, by rw [if_pos (by simpa using hc)]; rfl⟩

/-- Everything a guarded write can do. -/
theorem cfgWrite_cases (s written : State) :
    s.en = true ∧ cfgWrite s written = { s with werr := true } ∨
      s.en = false ∧ cfgWrite s written = written := by
  rcases Bool.eq_false_or_eq_true s.en with h | h
  · exact .inl ⟨h, by simp [cfgWrite, h, ignoredCfgWrite]⟩
  · exact .inr ⟨h, by simp [cfgWrite, h]⟩

/-! ### The ring -/

/-- The ring index of an offset past the head of a moved ring. -/
theorem ringIndex_shift (h a b n : Nat) : ((h + a) % n + b) % n = (h + (a + b)) % n := by
  rw [Nat.mod_add_mod, Nat.add_assoc]

/-- Two offsets less than a capacity apart have different ring indices. -/
theorem ringIndex_ne {h a b n : Nat} (hab : a < b) (hb : b < a + n) : (h + a) % n ≠ (h + b) % n := by
  intro he
  have h1 := Nat.sub_mod_eq_zero_of_mod_eq he.symm
  have h2 : h + b - (h + a) = b - a := by omega
  rw [h2, Nat.mod_eq_of_lt (by omega)] at h1
  omega

/-- What RingWrite leaves at each index. -/
theorem ringWrite_read {s : State} (k : Nat) (b : Byte) (c : Nat) (h : Memory.wf s.ring = true) :
    Memory.read (ringWrite s k b).ring c = if c = ringIndex s k then b else Memory.read s.ring c :=
  Memory.read_write _ _ _ h

@[simp] theorem ringPrefix_length (s : State) (n : Nat) : (ringPrefix s n).length = n := by
  simp [ringPrefix]

@[simp] theorem ringPending_length (s : State) : (ringPending s).length = s.pend := by
  simp [ringPending]

theorem ringPrefix_succ (s : State) (n : Nat) : ringPrefix s (n + 1) = ringPrefix s n ++ [ringRead s n] := by
  simp [ringPrefix, List.range_succ]

/-! ### Counters and flags -/

/-- sat_inc as an equation on words. -/
theorem satInc_eq (c : Word) : satInc c = if c = 0xFFFFFFFF then c else c + 1 := by
  unfold satInc
  by_cases h : c = 0xFFFFFFFF
  · simp [h]
  · have : c.toNat ≠ 4294967295 := fun h' => h (BitVec.eq_of_toNat_eq h')
    have := c.isLt
    rw [if_pos (by omega), if_neg h]

/-- A saturating increment raises a counter by at most 1. -/
theorem satInc_bounds (c : Word) : c.toNat ≤ (satInc c).toNat ∧ (satInc c).toNat ≤ c.toNat + 1 := by
  unfold satInc
  have := c.isLt
  split
  · rw [BitVec.toNat_add]
    simp
    omega
  · omega

theorem accumFlag_iff (s : State) :
    accumFlag s = true ↔ s.sv = true ∧ s.progress = s.schema.startLen.toNat := by
  simp [accumFlag]

theorem fullFlag_iff (s : State) :
    fullFlag s = true ↔ accumFlag s = true ∧ s.fill = s.schema.payloadLen := by
  simp [fullFlag]

theorem readyFlag_iff (s : State) : readyFlag s = true ↔ s.en = true ∧ s.fill + s.pend < ringCap s := by
  simp [readyFlag]

/-- The exclusive-or of one byte more. -/
theorem xorBytes_snoc (l : List Byte) (b : Byte) : xorBytes (l ++ [b]) = xorBytes l ^^^ b := by
  simp [xorBytes]

/-- The reset memory is in canonical form. -/
theorem reset_stores_wf (p : Params) :
    Memory.wf (State.resetOf p).ring = true ∧ Memory.wf (State.resetOf p).out = true := ⟨rfl, rfl⟩

end Sys2Proof.Machine
end

