-- ==== Sys2Proof/Laws/PerInstr.lean ====
section
/-! SUPPORT. Per instruction: the word of an operation carries the bits that its row of
spec/opcode_table.json fixes. One lemma per constructor of Instr. -/

namespace Sys2Proof

/-- The mask and match of a row of spec/opcode_table.json: a mask bit of 1 is a fixed bit. -/
structure TableRow where
  mask : BitVec 46
  bits : BitVec 46
  deriving DecidableEq, Repr

/-- A row that fixes CH and ADDR[11:2]. -/
def TableRow.register (ch : BitVec 2) (offset : BitVec 12) : TableRow :=
  ⟨makeWord 3 0xFFC 0, makeWord ch offset 0⟩

/-- The WR_RO row of a read-only register. -/
def RoReg.row : RoReg → TableRow
  | .id => .register 2 0x000
  | .params => .register 2 0x004
  | .status => .register 2 0x010
  | .layout => .register 2 0x018
  | .parity => .register 2 0x01C
  | .fillpend => .register 2 0x020
  | .seeks => .register 2 0x024
  | .pfail => .register 2 0x028
  | .psucc => .register 2 0x02C
  | .headptr => .register 2 0x034
  | .recRaw _ => ⟨0x3F0000000000, 0x210000000000⟩
  | .recElem _ => ⟨0x3C0000000000, 0x240000000000⟩

/-- The row of an operation; RESET's has neither mask nor match. -/
def Instr.row : Instr → TableRow
  | .rdId => .register 1 0x000
  | .rdParams => .register 1 0x004
  | .rdCtrl => .register 1 0x008
  | .rdCfg => .register 1 0x00C
  | .rdStatus => .register 1 0x010
  | .rdErr => .register 1 0x014
  | .rdLayout => .register 1 0x018
  | .rdParity => .register 1 0x01C
  | .rdFillpend => .register 1 0x020
  | .rdSeeks => .register 1 0x024
  | .rdPfail => .register 1 0x028
  | .rdPsucc => .register 1 0x02C
  | .rdRecctrl => .register 1 0x030
  | .rdHeadptr => .register 1 0x034
  | .wrRo r _ => r.row
  | .wrCtrl _ => .register 2 0x008
  | .construct _ => ⟨0x3FFC00000001, 0x200800000001⟩
  | .stop _ => ⟨0x3FFC00000001, 0x200800000000⟩
  | .wrCfg _ => .register 2 0x00C
  | .wrErr _ => .register 2 0x014
  | .wrRecctrl _ => .register 2 0x030
  | .rdStart _ => ⟨0x3FC000000000, 0x104000000000⟩
  | .wrStart _ _ => ⟨0x3FC000000000, 0x204000000000⟩
  | .rdField _ => ⟨0x3F8000000000, 0x108000000000⟩
  | .wrField _ _ => ⟨0x3F8000000000, 0x208000000000⟩
  | .rdRecraw _ => ⟨0x3F0000000000, 0x110000000000⟩
  | .rdRecelem _ => ⟨0x3C0000000000, 0x140000000000⟩
  | .rdUnmapped _ => ⟨0x300000000000, 0x100000000000⟩
  | .wrUnmapped _ _ => ⟨0x300000000000, 0x200000000000⟩
  | .push _ => ⟨0x3FFFFFFFFF00, 0x300000000000⟩
  | .coreIdle .disabled => ⟨0x3FFFFFFFFFC0, 0x000000000000⟩
  | .coreIdle .nothingPending => ⟨0x3FFFFFFFFFE8, 0x000000000040⟩
  | .validateAccept => ⟨0x3FFFFFFFFFF1, 0x000000000061⟩
  | .coreStall => ⟨0x3FFFFFFFFFF1, 0x000000000071⟩
  | .validateReject => ⟨0x3FFFFFFFFFE1, 0x000000000060⟩
  | .scanAccum => ⟨0x3FFFFFFFFFEC, 0x00000000004C⟩
  | .scanSeekHit => ⟨0x3FFFFFFFFFEE, 0x00000000004A⟩
  | .scanSeekMiss => ⟨0x3FFFFFFFFFEE, 0x000000000048⟩
  | .reset => ⟨0, 0⟩

/-- The fixed bits of a word, field by field. -/
theorem makeWord_and (c c' : BitVec 2) (a a' : BitVec 12) (d d' : Word) :
    makeWord c a d &&& makeWord c' a' d' = makeWord (c &&& c') (a &&& a') (d &&& d') := by
  unfold makeWord
  ext i hi
  simp only [BitVec.getElem_and, BitVec.getElem_append]
  grind

namespace Laws.EncodingMatchesRow

/-- The word of `i` matches its row. -/
def Statement (i : Instr) : Prop := ∀ tw : BitVec 46, encode i = some tw → tw &&& i.row.mask = i.row.bits

/-- A bus word against its row: only CH, ADDR and the fixed DATA bits count. -/
theorem of_fields {i : Instr} {ch : BitVec 2} {a am av : BitVec 12} {d dm dv : Word}
    (he : encode i = some (makeWord ch a d)) (hm : i.row.mask = makeWord 3 am dm)
    (hb : i.row.bits = makeWord ch av dv) (ha : a &&& am = av) (hd : d &&& dm = dv) : Statement i := by
  intro tw h
  rw [he] at h
  cases h
  have hch : ∀ c : BitVec 2, c &&& 3 = c := by decide
  rw [hm, hb, makeWord_and, ha, hd, hch]

/-- A word without operands. -/
theorem of_word {i : Instr} {tw : BitVec 46} (he : encode i = some tw) (h : tw &&& i.row.mask = i.row.bits) :
    Statement i := by
  intro tw' h'
  rw [he] at h'
  cases h'
  exact h

theorem rdId : Statement .rdId := of_word rfl (by decide)
theorem rdParams : Statement .rdParams := of_word rfl (by decide)
theorem rdCtrl : Statement .rdCtrl := of_word rfl (by decide)
theorem rdCfg : Statement .rdCfg := of_word rfl (by decide)
theorem rdStatus : Statement .rdStatus := of_word rfl (by decide)
theorem rdErr : Statement .rdErr := of_word rfl (by decide)
theorem rdLayout : Statement .rdLayout := of_word rfl (by decide)
theorem rdParity : Statement .rdParity := of_word rfl (by decide)
theorem rdFillpend : Statement .rdFillpend := of_word rfl (by decide)
theorem rdSeeks : Statement .rdSeeks := of_word rfl (by decide)
theorem rdPfail : Statement .rdPfail := of_word rfl (by decide)
theorem rdPsucc : Statement .rdPsucc := of_word rfl (by decide)
theorem rdRecctrl : Statement .rdRecctrl := of_word rfl (by decide)
theorem rdHeadptr : Statement .rdHeadptr := of_word rfl (by decide)

theorem wrRo (r : RoReg) (d : Word) : Statement (.wrRo r d) := by
  cases r with
  | recRaw w => exact of_fields rfl (am := 0xF00) (av := 0x100) rfl rfl (by revert w; decide) BitVec.and_zero
  | recElem k => exact of_fields rfl (am := 0xC00) (av := 0x400) rfl rfl (by revert k; decide) BitVec.and_zero
  | _ => exact of_fields rfl (am := 0xFFC) rfl rfl (by decide) BitVec.and_zero

theorem wrCtrl (d : Word) : Statement (.wrCtrl d) :=
  of_fields rfl (am := 0xFFC) rfl rfl (by decide) BitVec.and_zero

theorem construct (hi : BitVec 31) : Statement (.construct hi) :=
  of_fields rfl (am := 0xFFC) (av := 0x008) (dm := 1) (dv := 1) rfl rfl (by decide)
    (by ext i hi; simp; grind)

theorem stop (hi : BitVec 31) : Statement (.stop hi) :=
  of_fields rfl (am := 0xFFC) (av := 0x008) (dm := 1) (dv := 0) rfl rfl (by decide)
    (by ext i hi; simp; grind)

theorem wrCfg (d : Word) : Statement (.wrCfg d) :=
  of_fields rfl (am := 0xFFC) rfl rfl (by decide) BitVec.and_zero

theorem wrErr (d : Word) : Statement (.wrErr d) :=
  of_fields rfl (am := 0xFFC) rfl rfl (by decide) BitVec.and_zero

theorem wrRecctrl (d : Word) : Statement (.wrRecctrl d) :=
  of_fields rfl (am := 0xFFC) rfl rfl (by decide) BitVec.and_zero

theorem rdStart (w : BitVec 4) : Statement (.rdStart w) :=
  of_fields rfl (am := 0xFC0) (av := 0x040) rfl rfl (by revert w; decide) BitVec.and_zero

theorem wrStart (w : BitVec 4) (d : Word) : Statement (.wrStart w d) :=
  of_fields rfl (am := 0xFC0) (av := 0x040) rfl rfl (by revert w; decide) BitVec.and_zero

theorem rdField (w : BitVec 5) : Statement (.rdField w) :=
  of_fields rfl (am := 0xF80) (av := 0x080) rfl rfl (by revert w; decide) BitVec.and_zero

theorem wrField (w : BitVec 5) (d : Word) : Statement (.wrField w d) :=
  of_fields rfl (am := 0xF80) (av := 0x080) rfl rfl (by revert w; decide) BitVec.and_zero

theorem rdRecraw (w : BitVec 6) : Statement (.rdRecraw w) :=
  of_fields rfl (am := 0xF00) (av := 0x100) rfl rfl (by revert w; decide) BitVec.and_zero

theorem rdRecelem (w : BitVec 8) : Statement (.rdRecelem w) :=
  of_fields rfl (am := 0xC00) (av := 0x400) rfl rfl (by revert w; decide) BitVec.and_zero

theorem rdUnmapped (a : BitVec 10) : Statement (.rdUnmapped a) :=
  of_fields rfl (am := 0) (av := 0) rfl rfl BitVec.and_zero BitVec.and_zero

theorem wrUnmapped (a : BitVec 10) (d : Word) : Statement (.wrUnmapped a d) :=
  of_fields rfl (am := 0) (av := 0) rfl rfl BitVec.and_zero BitVec.and_zero

theorem push (b : Byte) : Statement (.push b) :=
  of_fields rfl (am := 0xFFF) (av := 0) (dm := 0xFFFFFF00) (dv := 0) rfl rfl (by decide)
    (by revert b; decide)

theorem coreIdle (row : IdleRow) : Statement (.coreIdle row) := by
  cases row <;> exact of_word rfl (by decide)

theorem validateAccept : Statement .validateAccept := of_word rfl (by decide)
theorem coreStall : Statement .coreStall := of_word rfl (by decide)
theorem validateReject : Statement .validateReject := of_word rfl (by decide)
theorem scanAccum : Statement .scanAccum := of_word rfl (by decide)
theorem scanSeekHit : Statement .scanSeekHit := of_word rfl (by decide)
theorem scanSeekMiss : Statement .scanSeekMiss := of_word rfl (by decide)

theorem reset : Statement .reset := by
  intro tw h
  cases h

end Laws.EncodingMatchesRow

end Sys2Proof
end

