-- ==== Sys2Proof/Laws/Step.lean ====
section
/-! SUPPORT. Laws of the step: running a list of operations, the operations of a cycle by its bus
request, a write to CTRL against its effect, and the inversion of the core action (42_synchronizer.md
R220). -/

namespace Sys2Proof.Machine

@[simp] theorem runOps_nil (s : State) : runOps [] s = .next s := rfl

/-- The first operation of a list that answers a next state. -/
theorem runOps_cons {i : Instr} {s t : State} (rest : List Instr) (h : exec i s = .next t) :
    runOps (i :: rest) s = runOps rest t := by
  rw [runOps, h]

/-- The pre-state's signals do not depend on its inputs to come. -/
@[simp] theorem coreOp_takeInput (s : State) : coreOp (takeInput s) = coreOp s := rfl
@[simp] theorem accumFlag_takeInput (s : State) : accumFlag (takeInput s) = accumFlag s := rfl
@[simp] theorem fullFlag_takeInput (s : State) : fullFlag (takeInput s) = fullFlag s := rfl
@[simp] theorem readyFlag_takeInput (s : State) : readyFlag (takeInput s) = readyFlag s := rfl
@[simp] theorem checkConfig_takeInput (s : State) : checkConfig (takeInput s) = checkConfig s := rfl
@[simp] theorem checkConfig_drivePorts (s : State) : checkConfig (drivePorts s) = checkConfig s := rfl
@[simp] theorem latchSchema_takeInput (s : State) : latchSchema (takeInput s) = latchSchema s := rfl
@[simp] theorem latchSchema_drivePorts (s : State) : latchSchema (drivePorts s) = latchSchema s := rfl

/-- The bus access by `bus_req`. -/
theorem busOp_none {c : CycleIn} (s : State) (h : c.busReq = 0 ∨ c.busReq = 3) : busOp c s = [] := by
  rcases h with h | h <;> simp [busOp, h]

theorem busOp_read {c : CycleIn} (s : State) (h : c.busReq = 1) :
    busOp c s = [decodeBus s.params false c.busAddr 0] := by
  simp [busOp, h]

theorem busOp_write {c : CycleIn} (s : State) (h : c.busReq = 2) :
    busOp c s = [resolveCtrl s (decodeBus s.params true c.busAddr c.busWdata)] := by
  simp [busOp, h]

/-- The effect a write to CTRL is given is what WR_CTRL does, where EN is the pre-state's
(40_configuration.md R162). -/
theorem exec_resolveCtrl {pre s : State} (h : s.en = pre.en) (i : Instr) :
    exec (resolveCtrl pre i) s = exec i s := by
  unfold resolveCtrl
  split
  · rename_i d
    split
    · rename_i hc
      simp only [Bool.and_eq_true, Bool.not_eq_true'] at hc
      simp only [exec, execConstruct, execWrCtrl, h, hc]
      rfl
    · split
      · rename_i h1 hc
        simp only [Bool.and_eq_true, Bool.not_eq_true'] at hc
        simp only [exec, execStop, execWrCtrl, h, hc]
        rfl
      · rfl
  · rfl

/-- The action the decode table gives for a state's signals. -/
theorem coreOp_eq (s : State) : coreOp s =
    if s.en = false then .coreIdle .disabled
    else if fullFlag s then
      if passFlag s && !s.outValid then .validateAccept
      else if passFlag s then .coreStall
      else .validateReject
    else if haveFlag s = false then .coreIdle .nothingPending
    else if accumFlag s then .scanAccum
    else if hitFlag s then .scanSeekHit
    else .scanSeekMiss := by
  unfold coreOp selector
  generalize s.en = a
  generalize fullFlag s = b
  generalize s.outValid = c
  generalize haveFlag s = d
  generalize accumFlag s = e
  generalize hitFlag s = f
  generalize passFlag s = g
  revert a b c d e f g
  decide

/-- The inversion of the core action: each action with the signals under which the core performs it. -/
theorem coreOp_cases (s : State) :
    coreOp s = .coreIdle .disabled ∧ s.en = false ∨
    coreOp s = .validateAccept ∧ s.en = true ∧ fullFlag s = true ∧ passFlag s = true ∧ s.outValid = false ∨
    coreOp s = .coreStall ∧ s.en = true ∧ fullFlag s = true ∧ passFlag s = true ∧ s.outValid = true ∨
    coreOp s = .validateReject ∧ s.en = true ∧ fullFlag s = true ∧ passFlag s = false ∨
    coreOp s = .coreIdle .nothingPending ∧ s.en = true ∧ fullFlag s = false ∧ s.pend = 0 ∨
    coreOp s = .scanAccum ∧ s.en = true ∧ fullFlag s = false ∧ 0 < s.pend ∧ accumFlag s = true ∨
    coreOp s = .scanSeekHit ∧ s.en = true ∧ fullFlag s = false ∧ 0 < s.pend ∧ accumFlag s = false ∧
      hitFlag s = true ∨
    coreOp s = .scanSeekMiss ∧ s.en = true ∧ fullFlag s = false ∧ 0 < s.pend ∧ accumFlag s = false ∧
      hitFlag s = false := by
  have h := coreOp_eq s
  rw [show haveFlag s = decide (0 < s.pend) from rfl] at h
  rcases Bool.eq_false_or_eq_true s.en with a | a <;>
  rcases Bool.eq_false_or_eq_true (fullFlag s) with b | b <;>
  rcases Bool.eq_false_or_eq_true (passFlag s) with c | c <;>
  rcases Bool.eq_false_or_eq_true s.outValid with d | d <;>
  rcases Bool.eq_false_or_eq_true (accumFlag s) with e | e <;>
  rcases Bool.eq_false_or_eq_true (hitFlag s) with f | f <;>
  rcases Nat.eq_zero_or_pos s.pend with g | g <;> simp_all

end Sys2Proof.Machine
end

