-- ==== Sys2Proof/Tests/Slice0.lean ====
section
/-! SUPPORT. Tests of the model against spec/95_test_vectors.md and the encodings of
spec/30_encoding.md: ill-formed terms, words written out bit by bit, single steps, and for each
obligation with hypotheses a state and operands that meet them. -/

namespace Sys2Proof.Tests

open Sys2Proof Sys2Proof.Machine

/-! ### Helpers -/

/-- A field of the next state. -/
def after {α : Type} (f : State → α) (o : Host.Outcome State Fault Refusal) : Option α :=
  match o with
  | .next t => some (f t)
  | .fault _ => none
  | .refused _ => none

/-- What the decoder of the default instance makes of a word. -/
def word (tw : BitVec 46) : Option Instr := (decodeTW .default tw).toOption

/-- A state with the configuration registers given. -/
def configured (cfg start0 : Word) (fields : List Word) : State :=
  { State.reset with
    cfg := cfg
    start := table 16 fun w => if w = 0 then start0 else 0
    field := table 32 fun i => fields.getD i 0 }

/-- The Scenario schema SCN of 95_test_vectors.md section 0, not yet constructed. -/
def scnRegisters : State := configured 0x00040100 0x02 [0x0105, 0x0103, 0x0304, 0x0180]

/-- Boot(SCN). -/
def scn : State := constructDecoder scnRegisters

/-- The Scenario payload PAY with byte 4 as given. -/
def pay (b4 : Byte) : List Byte :=
  [0x78, 0x56, 0x34, 0x12, b4, 0xAB, 0x01, 0x00, 0xFE, 0xFF, 0x2C, 0x01, 0x43]

/-- The bytes `bs` written to a store from index `a` on. -/
def fillStore (a : Nat) (bs : List Byte) : Memory :=
  match bs with
  | [] => []
  | b :: rest => Memory.write (fillStore (a + 1) rest) a b

/-- The pre-state of V-VAL-1 (byte 4 = 0xCD) and V-VAL-2 (0xCC). -/
def scnFull (b4 : Byte) : State :=
  { scn with head := 1, fill := 13, progress := 1, ring := fillStore 1 (pay b4) }

/-- The Scenario record in OUT, nothing pending: the state after V-SRC-7. -/
def scnRecord : State :=
  { scn with head := 14, out := fillStore 0 (pay 0xCD), outValid := true, psucc := 1 }

/-- V-VAL-6: a second payload waits while OUT holds a record. -/
def scnStalled : State := { scnFull 0xCD with out := fillStore 0 (pay 0xCD), outValid := true, psucc := 1 }

/-- A seeking SCN decoder with the byte `b` pending. -/
def scnPending (b : Byte) : State := { scn with head := 5, pend := 3, ring := fillStore 5 [b] }

/-- One cycle of `s` with the inputs `c`. -/
def cycle (s : State) (c : CycleIn) : Host.Outcome State Fault Refusal := step { s with env := [c] }

/-- A bus write. -/
def busWrite (a : BitVec 12) (d : Word) : CycleIn :=
  { CycleIn.idle with busReq := 2, busAddr := a, busWdata := d }

/-- A bus read. -/
def busRead (a : BitVec 12) : CycleIn := { CycleIn.idle with busReq := 1, busAddr := a }

/-! ### WellFormed refuses each kind of ill-formed term -/

/-- START[2] is not implemented at MAX_START = 8 (V-CNT-4). -/
theorem test_start_ill_formed :
    wellFormed .default (.rdStart 2) = false ∧ wellFormed .default (.wrStart 2 0) = false ∧
    wellFormed .default (.rdStart 1) = true := by decide

/-- FIELD[16] is not implemented at MAX_FIELDS = 16 (V-CNT-4). -/
theorem test_field_ill_formed :
    wellFormed .default (.rdField 16) = false ∧ wellFormed .default (.wrField 16 0) = false ∧
    wellFormed .default (.wrField 15 0) = true := by decide

/-- REC_RAW[16] and REC_ELEM[64] are not implemented at MAX_PAYLOAD = 64 (R34). -/
theorem test_record_ill_formed :
    wellFormed .default (.rdRecraw 16) = false ∧ wellFormed .default (.rdRecelem 64) = false ∧
    wellFormed .default (.wrRo (.recRaw 16) 0) = false ∧ wellFormed .default (.wrRo (.recElem 64) 0) = false ∧
    wellFormed .default (.rdRecelem 63) = true := by decide

/-- Offset 0x034 is HEADPTR, 0x038 is unmapped (R33, R34). -/
theorem test_unmapped_ill_formed :
    wellFormed .default (.rdUnmapped 13) = false ∧ wellFormed .default (.wrUnmapped 13 0) = false ∧
    wellFormed .default (.rdUnmapped 14) = true := by decide

/-! ### Decoding: words from the table of 30_encoding.md R111, 0xC_AAA_DDDDDDDD -/

/-- The fourteen read-only and control registers, offsets 0x000 to 0x034. -/
theorem test_decode_reads :
    word 0x100000000000 = some .rdId ∧ word 0x100400000000 = some .rdParams ∧
    word 0x100800000000 = some .rdCtrl ∧ word 0x100C00000000 = some .rdCfg ∧
    word 0x101000000000 = some .rdStatus ∧ word 0x101400000000 = some .rdErr ∧
    word 0x101800000000 = some .rdLayout ∧ word 0x101C00000000 = some .rdParity ∧
    word 0x102000000000 = some .rdFillpend ∧ word 0x102400000000 = some .rdSeeks ∧
    word 0x102800000000 = some .rdPfail ∧ word 0x102C00000000 = some .rdPsucc ∧
    word 0x103000000000 = some .rdRecctrl ∧ word 0x103400000000 = some .rdHeadptr := by decide

/-- Writes to the registers that take them, with data. -/
theorem test_decode_writes :
    word 0x200800000001 = some (.wrCtrl 1) ∧ word 0x200C00040100 = some (.wrCfg 0x40100) ∧
    word 0x201400010000 = some (.wrErr 0x10000) ∧ word 0x203000000001 = some (.wrRecctrl 1) := by decide

/-- Writes to read-only registers: the thirteen WR_RO rows. -/
theorem test_decode_read_only_writes :
    word 0x200000000005 = some (.wrRo .id 5) ∧ word 0x200400000005 = some (.wrRo .params 5) ∧
    word 0x201000000005 = some (.wrRo .status 5) ∧ word 0x201800000005 = some (.wrRo .layout 5) ∧
    word 0x201C00000005 = some (.wrRo .parity 5) ∧ word 0x202000000005 = some (.wrRo .fillpend 5) ∧
    word 0x202400000005 = some (.wrRo .seeks 5) ∧ word 0x202800000005 = some (.wrRo .pfail 5) ∧
    word 0x202C00000005 = some (.wrRo .psucc 5) ∧ word 0x203400000005 = some (.wrRo .headptr 5) ∧
    word 0x210C00000005 = some (.wrRo (.recRaw 3) 5) ∧ word 0x241400000005 = some (.wrRo (.recElem 5) 5) := by
  decide

/-- Window entries: the index is ADDR[5:2], ADDR[6:2], ADDR[7:2] and ADDR[9:2]; an unimplemented entry
and a hole are unmapped offsets; ADDR[1:0] is not looked at. -/
theorem test_decode_windows :
    word 0x104400000000 = some (.rdStart 1) ∧ word 0x204400000002 = some (.wrStart 1 2) ∧
    word 0x108C00000000 = some (.rdField 3) ∧ word 0x208C00000180 = some (.wrField 3 0x180) ∧
    word 0x113C00000000 = some (.rdRecraw 15) ∧ word 0x14FC00000000 = some (.rdRecelem 63) ∧
    word 0x104800000000 = some (.rdUnmapped 0x12) ∧ word 0x20C000000007 = some (.wrUnmapped 0x30 7) ∧
    word 0x180000000000 = some (.rdUnmapped 0x200) ∧ word 0x101300000000 = some .rdStatus := by decide

/-- Pushes carry one byte. -/
theorem test_decode_push :
    word 0x300000000078 = some (.push 0x78) ∧ word 0x3000000000FF = some (.push 0xFF) ∧
    word 0x300000000100 = none ∧ word 0x300400000078 = none := by decide

/-- Core words: the selector EN FULL OUTV HAVE ACCUM HIT PASS in DATA[6:0] (R112). -/
theorem test_decode_core :
    word 0x000000000000 = some (.coreIdle .disabled) ∧ word 0x00000000003F = some (.coreIdle .disabled) ∧
    word 0x000000000040 = some (.coreIdle .nothingPending) ∧ word 0x000000000065 = some .validateAccept ∧
    word 0x000000000075 = some .coreStall ∧ word 0x000000000064 = some .validateReject ∧
    word 0x00000000004C = some .scanAccum ∧ word 0x00000000004A = some .scanSeekHit ∧
    word 0x000000000048 = some .scanSeekMiss ∧ word 0x000000000080 = none ∧ word 0x000400000040 = none := by
  decide

/-- CONSTRUCT and STOP are effects of a write to CTRL (R164, R165); RESET has no word (R370). -/
theorem test_encode_effects :
    encode (.construct 0) = some 0x200800000001 ∧ encode (.stop 0) = some 0x200800000000 ∧
    encode .reset = none := by decide

/-- The table numbers a word's bits from the least significant one; bits 47..46 are no bits of a word. -/
theorem test_decode_table_word :
    decodeTableWord 48 0x108000000000 = some (.rdField 0) ∧ decodeTableWord 48 0x708000000000 = none := by
  decide

/-! ### Single steps: configuration -/

/-- V-CFG-3: masks and read-back. -/
theorem test_write_masks :
    after (·.cfg) (exec (.wrCfg 0xFFFFFFFF) .reset) = some 0x00FFFF01 ∧
    after (fieldAt · 0) (exec (.wrField 0 0xFFFFFFFF) .reset) = some 0x0000FF8F ∧
    after (startAt · 0) (exec (.wrStart 0 0xDEADBEEF) .reset) = some 0xDEADBEEF := by decide

/-- V-CFG-4: a write while EN = 1 is ignored and sets WERR. -/
theorem test_ignored_write :
    after (fun t => (t.cfg, errWord t)) (exec (.wrCfg 0) scn) = some (0x00040100, 0x00010000) := by decide

/-- V-CFG-4: WR_ERR with bit 16 set clears WERR; WR_RO sets none. -/
theorem test_clear_werr :
    after errWord (exec (.wrErr 0x10000) { scn with werr := true }) = some 0 ∧
    after errWord (exec (.wrRo .status 0xFFFFFFFF) scn) = some 0 := by decide

/-- V-CFG-1: the code and index of each failing test, and a payload of exactly MAX_PAYLOAD. -/
theorem test_check_codes :
    checkConfig (configured 0x00010900 0 [0x0101]) = (1, 0) ∧
    checkConfig (configured 0x00000100 2 []) = (2, 0) ∧
    checkConfig (configured 0x00110100 2 (List.replicate 16 0x0101)) = (2, 0) ∧
    checkConfig (configured 0x00020100 2 [0x0101, 0x0108]) = (3, 1) ∧
    checkConfig (configured 0x00030100 2 [0x0101, 0x0101, 0x0001]) = (4, 2) ∧
    checkConfig (configured 0x00040100 2 [0x0101, 0x0180, 0x0101, 0x0180]) = (5, 3) ∧
    checkConfig (configured 0x00010100 2 [0x0280]) = (6, 0) ∧
    checkConfig (configured 0x00020100 2 [0x0101, 0x0183]) = (7, 1) ∧
    checkConfig (configured 0x00020100 2 [0x1005, 0x0101]) = (8, 0) ∧
    checkConfig (configured 0x00010000 0 [0x1005]) = (0, 0) := by decide

/-- V-CFG-2: the order of the tests. -/
theorem test_check_order :
    checkConfig (configured 0x00020100 2 [0x0009, 0x0001]) = (3, 0) ∧
    checkConfig (configured 0x00010100 2 [0x0009]) = (3, 0) ∧
    checkConfig (configured 0x00030100 2 [0x4005, 0x0180, 0x0180]) = (5, 2) := by decide

/-- V-SRC-1: a failed construct records the error and leaves CTRL and LAYOUT at 0. -/
theorem test_failed_construct :
    after (fun t => (errWord t, t.en, t.schema.payloadLen))
      (exec (.construct 0) (configured 0x00020100 0x7E [0x0101, 0x0280])) = some (0x0106, false, 0) := by decide

/-- SCN after construct: LAYOUT = 0x0006_000D, PARITY = 0x0001_000C, STATUS = 0x51, CTRL = 1. -/
theorem test_construct_scn :
    after (·.rdata) (exec .rdLayout scn) = some 0x0006000D ∧
    after (·.rdata) (exec .rdParity scn) = some 0x0001000C ∧
    after (·.rdata) (exec .rdStatus scn) = some 0x51 ∧
    after (·.rdata) (exec .rdCtrl scn) = some 1 := by decide

/-- V-CFG-5: a CTRL write of 1 while EN = 1 is no construct. -/
theorem test_ctrl_write_running :
    after (fun t => (t.seeks, t.head)) (exec (.wrCtrl 1) { scn with seeks := 2, head := 2 }) = some (2, 2) := by
  decide

/-- V-CFG-7: a stop keeps the state: STATUS = 0x0152, FILLPEND = 0x5. -/
theorem test_stop :
    after (fun t => (statusWord t, t.fill, t.head)) (exec (.stop 0) { scn with progress := 1, fill := 5, head := 1 })
      = some (0x0152, 5, 1) := by decide

/-! ### Single steps: stream input and synchronizer -/

/-- V-IN-2: the byte enters RING[63], PEND = 1. -/
theorem test_push :
    after (fun t => (Memory.read t.ring 63, t.pend))
      (exec (.push 0x7E) { scn with head := 62, fill := 1, inReady := true }) = some (0x7E, 1) := by decide

/-- V-IN-1: a byte offered while in_ready = 0 is not transferred. -/
theorem test_push_not_ready : after (·.pend) (cycle .reset { CycleIn.idle with inValid := true }) = some 0 := by
  decide

/-- V-SEQ-1: SCAN_SEEK_HIT from HEAD 5, PEND 3. -/
theorem test_seek_hit :
    coreOp (scnPending 0x02) = .scanSeekHit ∧
    after (fun t => (t.head, t.pend, t.progress)) (exec .scanSeekHit (scnPending 0x02)) = some (6, 2, 1) := by
  decide

/-- V-SEQ-1: SCAN_SEEK_MISS with SEEKS 7; V-CNT-3: SEEKS saturates. -/
theorem test_seek_miss :
    coreOp (scnPending 0x13) = .scanSeekMiss ∧
    after (fun t => (t.progress, t.seeks, t.head, t.pend)) (exec .scanSeekMiss { scnPending 0x13 with seeks := 7 })
      = some (0, 8, 6, 2) ∧
    after (·.seeks) (exec .scanSeekMiss { scnPending 0x13 with seeks := 0xFFFFFFFF }) = some 0xFFFFFFFF := by
  decide

/-- V-SEQ-1: SCAN_ACCUM from FILL 12 makes the payload full. -/
theorem test_accum :
    after (fun t => (t.fill, t.pend, fullFlag t))
      (exec .scanAccum { scn with progress := 1, head := 6, fill := 12, pend := 1 }) = some (13, 0, true) := by
  decide

/-! ### Single steps: validator -/

/-- V-VAL-1: selector 0x65, the payload becomes the record, HEAD 14, PSUCC 1. -/
theorem test_accept :
    selector (scnFull 0xCD) = 0x65 ∧ selector { scnFull 0xCD with pend := 1 } = 0x6D ∧
    after (fun t => (t.out, t.outValid, t.head, t.fill, t.progress, t.psucc)) (exec .validateAccept (scnFull 0xCD))
      = some (fillStore 0 (pay 0xCD), true, 14, 0, 0, 1) := by decide

/-- V-VAL-2: selector 0x64, the window slides by one byte. -/
theorem test_reject :
    selector (scnFull 0xCC) = 0x64 ∧ statusWord (scnFull 0xCC) = 0x0157 ∧
    after (fun t => (t.head, t.fill, t.pend, t.progress, t.pfail)) (exec .validateReject (scnFull 0xCC))
      = some (2, 0, 12, 0, 1) := by decide

/-- V-VAL-6: selector 0x75, STATUS = 0x015F, nothing changes. -/
theorem test_stall :
    selector scnStalled = 0x75 ∧ statusWord scnStalled = 0x015F ∧
    after (fun t => (t.head, t.fill)) (exec .coreStall scnStalled) = some (1, 13) := by decide

/-- V-VAL-7: a SINT8 parity byte of 0x80 fails against an exclusive-or of 0x80, one of 0x11 passes. -/
theorem test_signed_parity :
    passBytes { Schema.zero with ppres := true, poff := 1, penc := 2 } (fun _ => 0x80) = false ∧
    passBytes { Schema.zero with ppres := true, poff := 1, penc := 2 } (fun _ => 0x11) = true := by decide

/-! ### Single steps: record output -/

/-- V-SRC-7, V-REC-3: element reads of the Scenario record. -/
theorem test_elem_reads :
    after (·.rdata) (exec (.rdRecelem 0) scnRecord) = some 0x12345678 ∧
    after (·.rdata) (exec (.rdRecelem 1) scnRecord) = some 0x0000ABCD ∧
    after (·.rdata) (exec (.rdRecelem 3) scnRecord) = some 0xFFFFFFFE ∧
    after (·.rdata) (exec (.rdRecelem 4) scnRecord) = some 0x0000012C ∧
    after (·.rdata) (exec (.rdRecelem 5) scnRecord) = some 0x00000043 ∧
    after (·.rdata) (exec (.rdRecelem 6) scnRecord) = some 0 := by decide

/-- V-SRC-7, V-REC-3: raw reads of the Scenario record. -/
theorem test_raw_reads :
    after (·.rdata) (exec (.rdRecraw 0) scnRecord) = some 0x12345678 ∧
    after (·.rdata) (exec (.rdRecraw 1) scnRecord) = some 0x0001ABCD ∧
    after (·.rdata) (exec (.rdRecraw 2) scnRecord) = some 0x012CFFFE ∧
    after (·.rdata) (exec (.rdRecraw 3) scnRecord) = some 0x00000043 ∧
    after (·.rdata) (exec (.rdRecraw 4) scnRecord) = some 0 := by decide

/-- V-REC-4: a POP needs bit 0 and OUT_VALID = 1. -/
theorem test_pop :
    after (·.outValid) (exec (.wrRecctrl 1) scnRecord) = some false ∧
    after (·.outValid) (exec (.wrRecctrl 2) scnRecord) = some true ∧
    after (·.rdata) (exec .rdRecctrl scnRecord) = some 0 := by decide

/-- V-SRC-2: the big-endian row: SINT16 -2, UINT32 0x12345678, FLOAT32 1.0, SINT8 -128. -/
def bigRecord : State :=
  { constructDecoder (configured 0x00040101 0xA5 [0x0104, 0x0105, 0x0107, 0x0202]) with
    out := fillStore 0 [0xFF, 0xFE, 0x12, 0x34, 0x56, 0x78, 0x3F, 0x80, 0x00, 0x00, 0x80, 0x7F]
    outValid := true }

/-- V-SRC-2: big-endian elements and raw words. -/
theorem test_big_endian :
    after (·.rdata) (exec (.rdRecelem 0) bigRecord) = some 0xFFFFFFFE ∧
    after (·.rdata) (exec (.rdRecelem 1) bigRecord) = some 0x12345678 ∧
    after (·.rdata) (exec (.rdRecelem 2) bigRecord) = some 0x3F800000 ∧
    after (·.rdata) (exec (.rdRecelem 3) bigRecord) = some 0xFFFFFF80 ∧
    after (·.rdata) (exec (.rdRecraw 0) bigRecord) = some 0x3412FEFF ∧ statusWord bigRecord = 0x69 := by decide

/-! ### Single steps: status and reset -/

/-- V-CNT-1: the constants. -/
theorem test_constants :
    after (·.rdata) (exec .rdId .reset) = some 0x46535901 ∧
    after (·.rdata) (exec .rdParams .reset) = some 0x00401008 := by decide

/-- V-VAL-2, V-CFG-6: FILLPEND, HEADPTR and the counters. -/
theorem test_occupancy_reads :
    after (·.rdata) (exec .rdFillpend { scnFull 0xCC with fill := 0, pend := 12 }) = some 0x000C0000 ∧
    after (·.rdata) (exec .rdHeadptr scnRecord) = some 0xE ∧
    after (·.rdata) (exec .rdPsucc scnRecord) = some 1 := by decide

/-- V-RST-2, V-RST-3: a reset ignores the cycle's bus write, outputs the pre-state OUT_VALID on
rec_valid, and clears OUT_VALID. -/
theorem test_reset_cycle :
    after (fun t => (t.recValid, t.outValid, t.cfg, t.pend, t.inReady))
      (cycle scnRecord { busWrite 0x00C 0x00040100 with rst := true, inValid := true })
      = some (true, false, 0, 0, false) := by decide

/-- V-VAL-6: in the POP cycle of a stalled core the payload is not yet accepted. -/
theorem test_pop_cycle_of_stall :
    after (fun t => (t.outValid, t.fill, t.psucc)) (cycle scnStalled (busWrite 0x030 1)) = some (false, 13, 1) := by
  decide

/-- P1: the cycle that reads STATUS after the boot shows 0x51, with in_ready = 1. -/
theorem test_read_cycle :
    after (fun t => (t.rdata, t.inReady, t.recValid)) (cycle scn (busRead 0x010)) = some (0x51, true, false) := by
  decide

/-! ### Witnesses: what meets the hypotheses of each obligation, clause by clause -/

/-- A state whose next cycle has the inputs `c`. -/
def withInput (s : State) (c : CycleIn) : State := { s with env := [c] }

/-- The AA55 schema of V-SEQ-2(b), no parity field. -/
def plain : State := constructDecoder (configured 0x00010200 0x55AA [0x0101])

/-- The empty start sequence of V-SEQ-5. -/
def emptyStart : State := constructDecoder (configured 0x00020000 0 [0x0101, 0x0180])

/-- One field of each encoding, all in one record: 8 fields, 19 bytes, 8 elements. -/
def everyType : State :=
  { constructDecoder (configured 0x00080100 2 [0x0100, 0x0101, 0x0102, 0x0103, 0x0104, 0x0105, 0x0106, 0x0107]) with
    outValid := true }

theorem witness_DecodeOfEncodeIsTheOperation :
    wellFormed .default (.rdRecelem 63) = true ∧ encode (.rdRecelem 63) = some 0x14FC00000000 ∧
    wellFormed .default (.wrStart 1 7) = true ∧ encode (.wrStart 1 7) = some 0x204400000007 := by decide

theorem witness_DecodedOperationsAreWellFormed :
    decodeTW .default 0x14FC00000000 = .ok (.rdRecelem 63) ∧
    decodeTW .default 0x00000000007F = .ok .coreStall ∧
    decodeTW .default 0x000000000080 = .error .coreWordNotZero ∧
    decodeTW .default 0x3000000000FF = .ok (.push 0xFF) ∧
    decodeTW .default 0x300000000100 = .error .pushWordNotZero := by decide

/-- One selector for each pattern of the decode table. -/
theorem witness_SelectorNamesTheCoreAction :
    (0x3F : BitVec 7) &&& 0x40 = 0x00 ∧ (0x6F : BitVec 7) &&& 0x71 = 0x61 ∧ (0x7F : BitVec 7) &&& 0x71 = 0x71 ∧
    (0x7E : BitVec 7) &&& 0x61 = 0x60 ∧ (0x57 : BitVec 7) &&& 0x68 = 0x40 ∧ (0x5F : BitVec 7) &&& 0x6C = 0x4C ∧
    (0x5B : BitVec 7) &&& 0x6E = 0x4A ∧ (0x59 : BitVec 7) &&& 0x6E = 0x48 := by decide

/-- Where the clauses meet: the first and last offset of each window, and the first and last
implemented entry of the default instance. -/
theorem witness_UnimplementedEntriesAreUnmapped :
    decodeBus .default false 0x040 0 = .rdStart 0 ∧ decodeBus .default false 0x047 0 = .rdStart 1 ∧
    decodeBus .default false 0x048 0 = .rdUnmapped 18 ∧ decodeBus .default false 0x07F 0 = .rdUnmapped 31 ∧
    decodeBus .default true 0x080 1 = .wrField 0 1 ∧ decodeBus .default true 0x0BF 1 = .wrField 15 1 ∧
    decodeBus .default true 0x0C0 1 = .wrUnmapped 48 1 ∧ decodeBus .default true 0x0FF 1 = .wrUnmapped 63 1 ∧
    decodeBus .default false 0x100 0 = .rdRecraw 0 ∧ decodeBus .default false 0x13F 0 = .rdRecraw 15 ∧
    decodeBus .default false 0x140 0 = .rdUnmapped 80 ∧ decodeBus .default false 0x1FF 0 = .rdUnmapped 127 ∧
    decodeBus .default false 0x400 0 = .rdRecelem 0 ∧ decodeBus .default false 0x4FF 0 = .rdRecelem 63 ∧
    decodeBus .default false 0x500 0 = .rdUnmapped 320 ∧ decodeBus .default false 0x7FF 0 = .rdUnmapped 511 ∧
    decodeBus .default false 0x038 0 = .rdUnmapped 14 ∧ decodeBus .default false 0x03F 0 = .rdUnmapped 15 ∧
    decodeBus .default false 0x200 0 = .rdUnmapped 128 ∧ decodeBus .default false 0x3FF 0 = .rdUnmapped 255 ∧
    decodeBus .default false 0x800 0 = .rdUnmapped 512 ∧ decodeBus .default false 0xFFF 0 = .rdUnmapped 1023 := by
  decide

/-- A cycle of each kind: reset, read, write, and the two encodings of no access. -/
theorem witness_StepRunsTheDecodedOperations :
    (nextInput (withInput scn { CycleIn.idle with rst := true })).rst = true ∧
    (nextInput (withInput scn (busRead 0x010))).rst = false ∧
    (nextInput (withInput scn (busRead 0x010))).busReq = 1 ∧
    (nextInput (withInput scn (busWrite 0x008 0))).busReq = 2 ∧
    (nextInput (withInput scn { CycleIn.idle with busReq := 3 })).busReq = 3 ∧
    (nextInput scn).busReq = 0 ∧
    after (·.en) (exec (.stop 0) scn) = some false := by decide

/-- The premise of R57 (6), with EN = 1 and with EN = 0. -/
theorem witness_StepIsTheComposedCycle :
    (scn.en = true ∧ scn.sv = true) ∧ State.reset.en = false := by decide

theorem witness_ResetOverridesEveryOtherInput :
    ({ CycleIn.idle with rst := true }).rst = true ∧ ({ busWrite 0x008 1 with rst := true }).rst = true := by decide

/-- A word of each channel. -/
theorem witness_PlacedWordIsRunByTheNextStep :
    State.reset.params.Valid ∧ Memory.wf State.reset.ring = true ∧
    decodeTW .default 0x000000000064 = .ok .validateReject ∧ decodeTW .default 0x101000000000 = .ok .rdStatus ∧
    decodeTW .default 0x200800000001 = .ok (.wrCtrl 1) ∧ decodeTW .default 0x300000000078 = .ok (.push 0x78) ∧
    twChannel 0x300000000078 = 3 := by decide

/-- An address of every word address a statement reads or writes at: the byte addresses 4·n and
4·n + 3. -/
theorem witness_ReadsAt_WritesAt :
    (∀ n : Fin 14, (BitVec.ofNat 12 (4 * n)).toNat / 4 = n) ∧
    (∀ n : Fin 14, (BitVec.ofNat 12 (4 * n + 3)).toNat / 4 = n) := by decide

/-- The first and last implemented entries, and the first that is not. -/
theorem witness_ConfigurationReadsReturnTheRegister :
    (0 : BitVec 4).toNat < (State.reset.params.maxStart + 3) / 4 ∧
    (1 : BitVec 4).toNat < (State.reset.params.maxStart + 3) / 4 ∧
    ¬(2 : BitVec 4).toNat < (State.reset.params.maxStart + 3) / 4 ∧
    (15 : BitVec 5).toNat < State.reset.params.maxFields ∧ ¬(16 : BitVec 5).toNat < State.reset.params.maxFields := by
  decide

/-- EN = 0 and EN = 1, the last implemented entries, and another entry. -/
theorem witness_ConfigurationWritesNeedAStoppedDecoder :
    State.reset.en = false ∧ scn.en = true ∧ (1 : BitVec 4).toNat < (State.reset.params.maxStart + 3) / 4 ∧
    (0 < 16 ∧ 0 ≠ (1 : BitVec 4).toNat) ∧ (15 : BitVec 5).toNat < State.reset.params.maxFields ∧
    (31 < 32 ∧ 31 ≠ (15 : BitVec 5).toNat) := by decide

/-- The first and last byte addresses of each window of the default instance, and of the largest. -/
theorem witness_ReadsIn_WritesIn :
    Params.default.Valid ∧ (⟨256, 64, 32⟩ : Params).Valid ∧
    (0x040 ≤ (0x040 : BitVec 12).toNat ∧ (0x047 : BitVec 12).toNat < 0x040 + 4 * ((8 + 3) / 4)) ∧
    (0x080 ≤ (0x080 : BitVec 12).toNat ∧ (0x0BF : BitVec 12).toNat < 0x080 + 4 * 16) ∧
    (0x100 ≤ (0x100 : BitVec 12).toNat ∧ (0x13F : BitVec 12).toNat < 0x100 + 4 * ((64 + 3) / 4)) ∧
    (0x400 ≤ (0x400 : BitVec 12).toNat ∧ (0x4FF : BitVec 12).toNat < 0x400 + 4 * 64) ∧
    (0x7FF : BitVec 12).toNat < 0x400 + 4 * 256 := by decide

theorem witness_ErrWriteClearsOnlyWerr :
    (0x10000 : Word).getLsbD 16 = true ∧ (0xFFFEFFFF : Word).getLsbD 16 = false := by decide

/-- The four pairs of wdata[0] and EN. -/
theorem witness_CtrlWriteConstructsOrStops :
    ((1 : Word).getLsbD 0 = true ∧ scnRegisters.en = false) ∧ ((0 : Word).getLsbD 0 = false ∧ scn.en = true) ∧
    (1 : Word).getLsbD 0 = scn.en ∧ (0xFFFFFFFE : Word).getLsbD 0 = scnRegisters.en := by decide

theorem witness_StopClearsOnlyEn : scn.en = true ∧ State.reset.en = false := by decide

/-- Codes 1 and 2, at both ends of NFIELDS' range. -/
theorem witness_CheckReportsTheFirstFailingTest_sizes :
    (cfgStartLen (configured 0x00010900 0 [0x0101]).cfg).toNat > State.reset.params.maxStart ∧
    ((cfgStartLen (configured 0x00000800 0 []).cfg).toNat ≤ State.reset.params.maxStart ∧
      (cfgNfields (configured 0x00000800 0 []).cfg).toNat = 0) ∧
    (cfgNfields (configured 0x00110800 0 []).cfg).toNat > State.reset.params.maxFields := by decide

/-- Codes 3 and 4: the last of sixteen fields, and the first. -/
theorem witness_CheckReportsTheFirstFailingTest_fields :
    (sizesLegal (configured 0x00020100 2 [0x0101, 0x0108]) ∧
      8 ≤ (fieldEnc (fieldAt (configured 0x00020100 2 [0x0101, 0x0108]) 1)).toNat ∧
      ∀ j < 1, (fieldEnc (fieldAt (configured 0x00020100 2 [0x0101, 0x0108]) j)).toNat < 8) ∧
    (sizesLegal (configured 0x00010100 2 [0x0001]) ∧ typesKnown (configured 0x00010100 2 [0x0001]) ∧
      fieldCount (fieldAt (configured 0x00010100 2 [0x0001]) 0) = 0) := by decide

/-- Codes 5, 6 and 7. -/
theorem witness_CheckReportsTheFirstFailingTest_parity :
    (sizesLegal (configured 0x00020100 2 [0x0180, 0x0180]) ∧ typesKnown (configured 0x00020100 2 [0x0180, 0x0180]) ∧
      countsPositive (configured 0x00020100 2 [0x0180, 0x0180]) ∧
      fieldPar (fieldAt (configured 0x00020100 2 [0x0180, 0x0180]) 0) = true ∧
      fieldPar (fieldAt (configured 0x00020100 2 [0x0180, 0x0180]) 1) = true ∧
      ∀ k < 1, fieldPar (fieldAt (configured 0x00020100 2 [0x0180, 0x0180]) k) = true → k = 0) ∧
    (sizesLegal (configured 0x00010100 2 [0x0280]) ∧ typesKnown (configured 0x00010100 2 [0x0280]) ∧
      countsPositive (configured 0x00010100 2 [0x0280]) ∧ onlyParity (configured 0x00010100 2 [0x0280]) 0 ∧
      fieldCount (fieldAt (configured 0x00010100 2 [0x0280]) 0) ≠ 1) ∧
    (sizesLegal (configured 0x00020100 2 [0x0101, 0x0183]) ∧ typesKnown (configured 0x00020100 2 [0x0101, 0x0183]) ∧
      countsPositive (configured 0x00020100 2 [0x0101, 0x0183]) ∧
      onlyParity (configured 0x00020100 2 [0x0101, 0x0183]) 1 ∧
      fieldCount (fieldAt (configured 0x00020100 2 [0x0101, 0x0183]) 1) = 1 ∧
      encSize (fieldEnc (fieldAt (configured 0x00020100 2 [0x0101, 0x0183]) 1)) ≠ 1) := by decide

/-- Code 8 at 65 bytes, and a legal configuration at exactly 64. -/
theorem witness_CheckReportsTheFirstFailingTest_payload :
    (sizesLegal (configured 0x00020100 2 [0x1005, 0x0101]) ∧ typesKnown (configured 0x00020100 2 [0x1005, 0x0101]) ∧
      countsPositive (configured 0x00020100 2 [0x1005, 0x0101]) ∧
      parityLegal (configured 0x00020100 2 [0x1005, 0x0101]) ∧
      sumBelow 2 (fieldBytes (configured 0x00020100 2 [0x1005, 0x0101])) = 65) ∧
    (sizesLegal (configured 0x00010000 0 [0x1005]) ∧ typesKnown (configured 0x00010000 0 [0x1005]) ∧
      countsPositive (configured 0x00010000 0 [0x1005]) ∧ parityLegal (configured 0x00010000 0 [0x1005]) ∧
      sumBelow 1 (fieldBytes (configured 0x00010000 0 [0x1005])) = 64) ∧
    parityLegal scnRegisters :=
  ⟨by decide, by decide, by decide⟩

/-- With EN = 1; with EN = 0 an illegal configuration; and with EN = 0 a legal one, with and without a
parity field. -/
theorem witness_ConstructFollowsCheck :
    scnRegisters.params.Valid ∧ scn.en = true ∧
    ((configured 0x00010100 2 [0x0280]).en = false ∧ (checkConfig (configured 0x00010100 2 [0x0280])).1 ≠ 0) ∧
    (scnRegisters.en = false ∧ (checkConfig scnRegisters).1 = 0) ∧
    scn.schema.ppres = true ∧ plain.schema.ppres = false ∧ (7 < scnRegisters.params.maxStart) ∧
    15 < scnRegisters.params.maxFields ∧ 3 < scn.schema.nf.toNat := by decide

theorem witness_ConstructedSchemaIsLegal :
    scnRegisters.params.Valid ∧ scnRegisters.en = false ∧ (checkConfig scnRegisters).1 = 0 ∧
    exec (.construct 0) scnRegisters = .next scn := ⟨by decide, by decide, by decide, rfl⟩

theorem witness_ConstantReads : State.reset.params.Valid := by decide

theorem witness_ReadOnlyAndUnmappedWritesChangeNothing :
    ∀ n ∈ [0, 1, 4, 6, 7, 8, 9, 10, 11, 13], (BitVec.ofNat 12 (4 * n)).toNat / 4 = n := by decide

/-- A cycle without a reset and a construct, in a state whose core counts. -/
theorem witness_CountersRiseByAtMostOne :
    (nextInput (scnPending 0x13)).rst = false ∧ ¬constructsNext (scnPending 0x13) := by decide

theorem witness_PushWritesOneByteAtTheTail :
    Memory.wf (scnFull 0xCD).ring = true ∧ ({ scnFull 0xCD with inReady := true }).inReady = true ∧
    (scnFull 0xCD).inReady = false := by decide

/-- A state of the invariant for each core action. -/
theorem witness_core_invariant :
    Inv (scnPending 0x02) ∧ Inv (scnPending 0x13) ∧ Inv (scnFull 0xCD) ∧ Inv (scnFull 0xCC) ∧
    Inv scnStalled ∧ Inv scnRecord ∧ Inv { scn with progress := 1, pend := 1 } :=
  ⟨by decide, by decide, by decide, by decide, by decide, by decide, by decide⟩

/-- Each core action with EN = 1, in those states. -/
theorem witness_CoreActionsNeverAddBytes :
    coreOp (scnPending 0x02) = .scanSeekHit ∧ coreOp (scnPending 0x13) = .scanSeekMiss ∧
    coreOp (scnFull 0xCD) = .validateAccept ∧ coreOp (scnFull 0xCC) = .validateReject ∧
    coreOp { scn with progress := 1, pend := 1 } = .scanAccum := by decide

theorem witness_CoreActionIsChosenByTheRule : (scn.en = true ∧ scn.sv = true) ∧ State.reset.en = false := by decide

theorem witness_EmptyStartSequenceNeverSeeks :
    emptyStart.sv = true ∧ emptyStart.schema.startLen = 0 ∧ emptyStart.progress = 0 ∧ emptyStart.en = true ∧
    fullFlag { emptyStart with pend := 1 } = false ∧ 0 < ({ emptyStart with pend := 1 }).pend := by decide

theorem witness_CoreActionsKeepTheTail : Inv (scnFull 0xCC) := by decide

/-- A state of the invariant whose action is neither CORE_IDLE nor CORE_STALL. -/
theorem witness_CoreActionsLowerTheMeasure :
    Inv (scnFull 0xCC) ∧ (∀ row, coreOp (scnFull 0xCC) ≠ .coreIdle row) ∧ coreOp (scnFull 0xCC) ≠ .coreStall :=
  ⟨by decide, fun row => by cases row <;> decide, by decide⟩

/-- A state that scans, and one that validates. -/
theorem witness_CoreActionRefinesFeed :
    (Inv (scnPending 0x02) ∧ (scnPending 0x02).en = true ∧ scans (coreOp (scnPending 0x02))) ∧
    (Inv (scnFull 0xCC) ∧ (scnFull 0xCC).en = true ∧ ¬scans (coreOp (scnFull 0xCC))) :=
  ⟨⟨by decide, by decide, by decide⟩, by decide, by decide, by decide⟩

/-- A running state with a byte transferred in the cycle, and without one. -/
theorem witness_StepRefinesFeed :
    (Inv (withInput (scnPending 0x02) { CycleIn.idle with inValid := true }) ∧
      (nextInput (withInput (scnPending 0x02) { CycleIn.idle with inValid := true })).rst = false ∧
      transferred (withInput (scnPending 0x02) { CycleIn.idle with inValid := true }) = [0]) ∧
    Inv (scnPending 0x02) ∧ (scnPending 0x02).en = true ∧ transferred (scnPending 0x02) = [] :=
  ⟨⟨by decide, by decide, by decide⟩, by decide, by decide, by decide⟩

/-- No parity field; RAW8; SINT8. -/
theorem witness_ParityPassesWhenTheXorIsZero :
    plain.schema.ppres = false ∧ (scn.schema.ppres = true ∧ scn.schema.penc ≠ 2) ∧
    ({ scn.schema with penc := 2 }).ppres = true ∧ ({ scn.schema with penc := 2 }).penc = 2 := by decide

theorem witness_AcceptCopiesThePayload : Memory.wf scnRecord.out = true ∧ Memory.wf (scnFull 0xCD).out = true := by
  decide

theorem witness_RejectSlidesByOneByte : coreOp (scnFull 0xCC) = .validateReject := by decide

/-- The first and last words of the window. -/
theorem witness_RawReadReturnsRecordBytes :
    (0 : BitVec 6).toNat < (scnRecord.params.maxPayload + 3) / 4 ∧
    (15 : BitVec 6).toNat < (scnRecord.params.maxPayload + 3) / 4 := by decide

/-- Every encoding, each as the first element of its field, in one schema; and the last element of a
field of three. -/
theorem witness_ElementReadUnpacksTheField :
    (everyType.outValid = true ∧ everyType.schema.nf.toNat ≤ 32 ∧ everyType.schema = deriveSchema everyType.schema ∧
      ∀ i < 8, i < everyType.schema.nf.toNat ∧ 0 < schemaCount everyType.schema i ∧
        (BitVec.ofNat 8 i).toNat = schemaFelem everyType.schema i + 0 ∧
        (BitVec.ofNat 8 i).toNat < everyType.params.maxPayload ∧ schemaEnc everyType.schema i = .ofNat 4 i) ∧
    (scnRecord.schema = deriveSchema scnRecord.schema ∧ 2 < schemaCount scnRecord.schema 2 ∧
      (4 : BitVec 8).toNat = schemaFelem scnRecord.schema 2 + 2) := by decide

/-- No record, and the first element past the record. -/
theorem witness_ElementReadIsZeroOutsideTheRecord :
    scn.outValid = false ∧ scnRecord.schema.nelem ≤ (6 : BitVec 8).toNat := by decide

theorem witness_PopReleasesTheRecord :
    ((1 : Word).getLsbD 0 = true ∧ scnRecord.outValid = true) ∧ (2 : Word).getLsbD 0 = false ∧
    scn.outValid = false := by decide

/-- A record, in a cycle that writes 0 to RECCTRL and pushes. -/
theorem witness_RecordIsStableUntilReleased :
    scnRecord.outValid = true ∧ (nextInput (withInput scnRecord (busWrite 0x030 0))).rst = false ∧
    ¬writesWord (withInput scnRecord (busWrite 0x030 0)) 12 true ∧
    ¬constructsNext (withInput scnRecord (busWrite 0x030 0)) := by decide

theorem witness_StalledPayloadIsAcceptedAfterThePop :
    Inv (withInput scnStalled (busWrite 0x030 1)) ∧ coreOp (withInput scnStalled (busWrite 0x030 1)) = .coreStall ∧
    (nextInput (withInput scnStalled (busWrite 0x030 1))).rst = false ∧
    writesWord (withInput scnStalled (busWrite 0x030 1)) 12 true :=
  ⟨by decide, by decide, by decide, by decide⟩

theorem witness_ResetGivesTheResetState :
    (nextInput (withInput scnRecord { CycleIn.idle with rst := true })).rst = true := by decide

/-- The offsets where the clauses meet. -/
theorem witness_RegisterMapAfterReset :
    (0x003 : BitVec 12).toNat / 4 = 0 ∧ (0x004 : BitVec 12).toNat / 4 = 1 ∧ (0x007 : BitVec 12).toNat / 4 = 1 ∧
    2 ≤ (0x008 : BitVec 12).toNat / 4 ∧ 2 ≤ (0xFFF : BitVec 12).toNat / 4 := by decide

/-- The smallest and the largest instance that R6 allows, and the default one. -/
theorem witness_ResetStateMeetsTheInvariant :
    (⟨1, 0, 1⟩ : Params).Valid ∧ (⟨256, 64, 32⟩ : Params).Valid ∧ Params.default.Valid := by decide

theorem witness_StepKeepsTheInvariant : Inv State.reset ∧ Inv scn ∧ Inv scnRegisters ∧ Inv emptyStart :=
  ⟨by decide, by decide, by decide, by decide⟩

/-- A running decoder in a cycle that writes CFG, the last implemented START[w], and the last implemented
FIELD[i]. -/
theorem witness_RunningConfigurationIsImmutable :
    scn.params.Valid ∧ scn.en = true ∧ ∀ a ∈ [(0x00C : BitVec 12), 0x044, 0x0BC],
      (nextInput (withInput scn (busWrite a 0))).rst = false ∧
      (nextInput (withInput scn (busWrite a 0))).busReq = 2 ∧
      isCfgWord scn.params ((nextInput (withInput scn (busWrite a 0))).busAddr.toNat / 4) := by decide

/-- A cycle that constructs, and one that does not. -/
theorem witness_OnlyConstructChangesTheSchema :
    (nextInput (withInput scnRegisters (busWrite 0x008 1))).rst = false ∧
    constructsNext (withInput scnRegisters (busWrite 0x008 1)) ∧ ¬constructsNext scnRegisters := by decide

/-- A reset; a write to a running decoder's CFG, START[1] and FIELD[15]; and a cycle without one. -/
theorem witness_WerrIsSetByIgnoredWritesOnly :
    scn.params.Valid ∧ (nextInput (withInput scn { CycleIn.idle with rst := true })).rst = true ∧
    (nextInput (withInput scn (busWrite 0x00C 0))).rst = false ∧
    isCfgWord scn.params ((nextInput (withInput scn (busWrite 0x00C 0))).busAddr.toNat / 4) ∧
    isCfgWord scn.params ((nextInput (withInput scn (busWrite 0x044 0))).busAddr.toNat / 4) ∧
    isCfgWord scn.params ((nextInput (withInput scn (busWrite 0x0BC 0))).busAddr.toNat / 4) ∧
    (nextInput (withInput scn (busWrite 0x0BC 0))).busReq = 2 ∧ scn.en = true ∧
    ¬isCfgWord scn.params ((nextInput (withInput scn (busWrite 0x048 0))).busAddr.toNat / 4) ∧
    ¬isCfgWord scn.params ((nextInput (withInput scn (busWrite 0x0C0 0))).busAddr.toNat / 4) := by decide

/-- A cycle without a reset and a construct, for an accepting core and for one that does not accept, with
a POP and without one. -/
theorem witness_FlagsHaveTheirWriters :
    ((nextInput (scnFull 0xCD)).rst = false ∧ ¬constructsNext (scnFull 0xCD) ∧
      coreOp (scnFull 0xCD) = .validateAccept) ∧
    (coreOp scnRecord ≠ .validateAccept ∧ coreOp scnRecord ≠ .scanSeekMiss ∧ coreOp scnRecord ≠ .validateReject) ∧
    writesWord (withInput scnRecord (busWrite 0x030 1)) 12 true ∧ ¬writesWord scnRecord 12 true ∧
    ¬(writesWord scnRecord 2 true ∧ scnRecord.en = false) := by decide

/-- A stopped decoder that holds a record, in a cycle with a POP and in one without. -/
theorem witness_StoppedDecoderIsFrozen :
    ({ scnRecord with en := false }).en = false ∧
    (nextInput (withInput { scnRecord with en := false } (busWrite 0x030 1))).rst = false ∧
    ¬constructsNext (withInput { scnRecord with en := false } (busWrite 0x030 1)) ∧
    writesWord (withInput { scnRecord with en := false } (busWrite 0x030 1)) 12 true ∧
    ¬writesWord { scnRecord with en := false } 12 true := by decide

theorem witness_StopCycleStillRunsTheCore :
    (scnFull 0xCD).en = true ∧ (busWrite 0x008 0).rst = false ∧
    (withInput (scnFull 0xCD) (busWrite 0x008 0)).env = [busWrite 0x008 0] ∧
    writesWord (withInput (scnFull 0xCD) (busWrite 0x008 0)) 2 false := by decide

/-- A quiescent core in a cycle without an access; with a STOP; and with a POP, a write to ERR, an ignored
configuration write and a write of 1 to CTRL, none of which is a STOP. -/
theorem witness_QuiescentCoreStaysQuiescent :
    (scn.en = true ∧ fullFlag scn = false ∧ scn.pend = 0 ∧ (nextInput scn).rst = false ∧
      transferred scn = [] ∧ (nextInput scn).busReq ≠ 2) ∧
    (transferred (withInput scn (busWrite 0x008 0)) = [] ∧ writesWord (withInput scn (busWrite 0x008 0)) 2 false) ∧
    ∀ a ∈ [(0x030 : BitVec 12), 0x014, 0x00C, 0x008],
      (nextInput (withInput scn (busWrite a 1))).rst = false ∧ transferred (withInput scn (busWrite a 1)) = [] ∧
      ¬writesWord (withInput scn (busWrite a 1)) 2 false := by decide

end Sys2Proof.Tests
end

section
/-! The register map past the single registers and what a slot found there says about its address
(10_state.md R34), with obligation O6. -/

namespace Sys2Proof

/-- An entry of the START window is that entry if implemented and unmapped if not; so too the three
windows below. -/
theorem locate_startWindow (p : Params) {n : Nat} (hlo : 16 ≤ n) (hhi : n < 32) :
    locate p n = if n - 16 < p.startWords then .start (.ofNat 4 (n - 16)) else .unmapped (.ofNat 10 n) := by
  rw [locate_window p (by omega)]
  by_cases h : n - 16 < p.startWords
  · rw [if_pos ⟨hlo, hhi, h⟩, if_pos h]
  · rw [if_neg (by omega), if_neg (by omega), if_neg (by omega), if_neg (by omega), if_neg h]

theorem locate_fieldWindow (p : Params) {n : Nat} (hlo : 32 ≤ n) (hhi : n < 64) :
    locate p n = if n - 32 < p.maxFields then .field (.ofNat 5 (n - 32)) else .unmapped (.ofNat 10 n) := by
  rw [locate_window p (by omega), if_neg (by omega)]
  by_cases h : n - 32 < p.maxFields
  · rw [if_pos ⟨hlo, hhi, h⟩, if_pos h]
  · rw [if_neg (by omega), if_neg (by omega), if_neg (by omega), if_neg h]

theorem locate_recRawWindow (p : Params) {n : Nat} (hlo : 64 ≤ n) (hhi : n < 128) :
    locate p n = if n - 64 < p.recWords then .recRaw (.ofNat 6 (n - 64)) else .unmapped (.ofNat 10 n) := by
  rw [locate_window p (by omega), if_neg (by omega), if_neg (by omega)]
  by_cases h : n - 64 < p.recWords
  · rw [if_pos ⟨hlo, hhi, h⟩, if_pos h]
  · rw [if_neg (by omega), if_neg (by omega), if_neg h]

theorem locate_recElemWindow (p : Params) {n : Nat} (hlo : 256 ≤ n) (hhi : n < 512) :
    locate p n =
      if n - 256 < p.maxPayload then .recElem (.ofNat 8 (n - 256)) else .unmapped (.ofNat 10 n) := by
  rw [locate_window p (by omega), if_neg (by omega), if_neg (by omega), if_neg (by omega)]
  by_cases h : n - 256 < p.maxPayload
  · rw [if_pos ⟨hlo, hhi, h⟩, if_pos h]
  · rw [if_neg (by omega), if_neg h]

/-- The three holes of the map are unmapped whatever the parameters. -/
theorem locate_hole (p : Params) {n : Nat} (h : n = 14 ∨ n = 15 ∨ (128 ≤ n ∧ n < 256) ∨ 512 ≤ n) :
    locate p n = .unmapped (.ofNat 10 n) := by
  rw [locate_window p (by omega), if_neg (by omega), if_neg (by omega), if_neg (by omega),
    if_neg (by omega)]

theorem decodeBus_read_of_locate {p : Params} {a : BitVec 12} {r : Reg} (d : Word)
    (h : locate p (a.toNat / 4) = r) : decodeBus p false a d = readInstr r := by
  rw [← h]; rfl

theorem decodeBus_write_of_locate {p : Params} {a : BitVec 12} {r : Reg} (d : Word)
    (h : locate p (a.toNat / 4) = r) : decodeBus p true a d = writeInstr d r := by
  rw [← h]; rfl

/-- The slot found at a word address has that word address. -/
theorem word_locate (p : Params) {n : Nat} (h : n < 1024) : (locate p n).word.toNat = n := by
  by_cases hn : n < 14
  · interval_cases n <;> rfl
  · rw [locate_window p (by omega)]
    split_ifs <;> simp [Reg.word] <;> omega

/-- Only implemented entries of the START window are found. -/
theorem start_implemented {p : Params} {n : Nat} {w : BitVec 4} (hn : n < 1024)
    (h : locate p n = .start w) : w.toNat < p.startWords := by
  have hw := word_locate p hn
  have hlt := w.isLt
  rw [h] at hw
  simp only [Reg.word, BitVec.toNat_ofNat] at hw
  rw [locate_startWindow p (by omega) (by omega)] at h
  split at h
  · omega
  · cases h

/-- Only implemented entries of the FIELD window are found. -/
theorem field_implemented {p : Params} {n : Nat} {i : BitVec 5} (hn : n < 1024)
    (h : locate p n = .field i) : i.toNat < p.maxFields := by
  have hw := word_locate p hn
  have hlt := i.isLt
  rw [h] at hw
  simp only [Reg.word, BitVec.toNat_ofNat] at hw
  rw [locate_fieldWindow p (by omega) (by omega)] at h
  split at h
  · omega
  · cases h

end Sys2Proof

namespace Sys2Proof.Machine

/-- Settles O6: each window by its law of the register map, the holes by theirs. -/
theorem unimplementedEntriesAreUnmapped : Obligations.UnimplementedEntriesAreUnmapped := by
  refine ⟨fun p a d => ⟨fun hlo hhi => ?start, fun hlo hhi => ?field, fun hlo hhi => ?recRaw,
    fun hlo hhi => ?recElem, fun h => ?hole⟩, fun s a d => ⟨rfl, rfl⟩⟩
  case start =>
    have hl := locate_startWindow p (n := a.toNat / 4) (by omega) (by omega)
    rw [decodeBus_read_of_locate d hl, decodeBus_write_of_locate d hl,
      show (a.toNat - 0x040) / 4 = a.toNat / 4 - 16 by omega]
    exact ⟨apply_ite _ _ _ _, apply_ite _ _ _ _⟩
  case field =>
    have hl := locate_fieldWindow p (n := a.toNat / 4) (by omega) (by omega)
    rw [decodeBus_read_of_locate d hl, decodeBus_write_of_locate d hl,
      show (a.toNat - 0x080) / 4 = a.toNat / 4 - 32 by omega]
    exact ⟨apply_ite _ _ _ _, apply_ite _ _ _ _⟩
  case recRaw =>
    have hl := locate_recRawWindow p (n := a.toNat / 4) (by omega) (by omega)
    rw [decodeBus_read_of_locate d hl, decodeBus_write_of_locate d hl,
      show (a.toNat - 0x100) / 4 = a.toNat / 4 - 64 by omega]
    exact ⟨apply_ite _ _ _ _, apply_ite _ _ _ _⟩
  case recElem =>
    have hl := locate_recElemWindow p (n := a.toNat / 4) (by omega) (by omega)
    rw [decodeBus_read_of_locate d hl, decodeBus_write_of_locate d hl,
      show (a.toNat - 0x400) / 4 = a.toNat / 4 - 256 by omega]
    exact ⟨apply_ite _ _ _ _, apply_ite _ _ _ _⟩
  case hole =>
    have hl := locate_hole p (n := a.toNat / 4) (by omega)
    exact ⟨decodeBus_read_of_locate d hl, decodeBus_write_of_locate d hl⟩

end Sys2Proof.Machine
end

section
/-! The reset state meets the invariant (70_reset_and_hazards.md R371), with obligation O50. -/

namespace Sys2Proof.Machine

theorem startAt_resetOf (p : Params) (w : Nat) : startAt (State.resetOf p) w = 0 := by
  by_cases h : w < 16 <;> simp [startAt, State.resetOf, h]

theorem fieldAt_resetOf (p : Params) (i : Nat) : fieldAt (State.resetOf p) i = 0 := by
  by_cases h : i < 32 <;> simp [fieldAt, State.resetOf, h]

/-- The reset state for legal parameters meets the invariant: the ring is empty, the schema the zero
schema, every register entry 0 and both stores empty. -/
theorem inv_resetOf {p : Params} (hp : p.Valid) : Inv (State.resetOf p) := by
  obtain ⟨hcap, -⟩ := id hp
  have hocc : Occupancy (State.resetOf p) :=
    ⟨Nat.zero_le _, Nat.zero_le _, Nat.zero_le _, fun _ => rfl, nofun, nofun, fun _ => ⟨rfl, rfl, rfl⟩, hcap⟩
  have hcfg : (0 : Word) = 0 &&& cfgMask := by decide
  have hfield : ∀ i < 32, fieldAt (State.resetOf p) i = fieldAt (State.resetOf p) i &&& fieldMask := by
    simp [fieldAt_resetOf]
  have hregs : RegistersLegal (State.resetOf p) :=
    ⟨hcfg, hfield, fun w _ _ => startAt_resetOf p w, fun i _ _ => fieldAt_resetOf p i, Nat.zero_le 8, nofun⟩
  exact ⟨hp, hocc, ⟨rfl, rfl⟩, hregs, rfl, rfl, rfl, rfl⟩

/-- Settles O50: the default parameters are legal too. -/
theorem resetStateMeetsTheInvariant : Obligations.ResetStateMeetsTheInvariant :=
  ⟨fun _ => inv_resetOf, inv_resetOf (by decide)⟩

end Sys2Proof.Machine
end

section
/-! Check and the schema a construct latches (40_configuration.md R163, 10_state.md R52), with
obligation O21. -/

namespace Sys2Proof.Machine

/-! ### What Check answers (40_configuration.md R163) -/

/-- A code of 60_exceptions.md R341, with an index only where the code has one. -/
abbrev ErrLegal (e : BitVec 4 × BitVec 5) : Prop :=
  e.1.toNat ≤ 8 ∧ (e.2 ≠ 0 → 3 ≤ e.1.toNat ∧ e.1.toNat ≤ 7)

/-- The codes 3 to 7 are the ones with an index. -/
theorem errLegal_of_indexed {code : BitVec 4} (fidx : BitVec 5) (h : 3 ≤ code.toNat ∧ code.toNat ≤ 7) :
    ErrLegal (code, fidx) :=
  ⟨Nat.le_succ_of_le h.2, fun _ => h⟩

theorem checkPayload_errLegal (s : State) (nf : Nat) : ErrLegal (checkPayload s nf) := by
  unfold checkPayload
  split <;> decide

theorem checkParity_errLegal (s : State) (nf : Nat) (pars : List Nat) :
    ErrLegal (checkParity s nf pars) := by
  unfold checkParity
  split
  · exact errLegal_of_indexed _ (by decide)
  · split
    · exact errLegal_of_indexed _ (by decide)
    · split
      · exact errLegal_of_indexed _ (by decide)
      · exact checkPayload_errLegal s nf
  · exact checkPayload_errLegal s nf

/-- Whatever Check answers is a legal content of ERR. -/
theorem checkConfig_errLegal (s : State) : ErrLegal (checkConfig s) := by
  unfold checkConfig
  dsimp only
  split
  · decide
  · split
    · decide
    · split
      · exact errLegal_of_indexed _ (by decide)
      · split
        · exact errLegal_of_indexed _ (by decide)
        · exact checkParity_errLegal s _ _

theorem checkPayload_passes {s : State} {nf : Nat} (h : (checkPayload s nf).1 = 0) :
    sumBelow nf (fieldBytes s) ≤ s.params.maxPayload := by
  unfold checkPayload at h
  split at h
  · simp at h
  · omega

/-- The parity tests pass when no field is marked or one field of one byte is. -/
theorem checkParity_passes {s : State} {nf : Nat} {pars : List Nat} (h : (checkParity s nf pars).1 = 0) :
    (pars = [] ∨ ∃ q, pars = [q] ∧ fieldCount (fieldAt s q) = 1 ∧ encSize (fieldEnc (fieldAt s q)) = 1) ∧
      sumBelow nf (fieldBytes s) ≤ s.params.maxPayload := by
  unfold checkParity at h
  split at h
  · simp at h
  · rename_i q
    split at h
    · simp at h
    · rename_i hcount
      split at h
      · simp at h
      · rename_i hsize
        exact ⟨.inr ⟨q, rfl, not_not.1 hcount, not_not.1 hsize⟩, checkPayload_passes h⟩
  · exact ⟨.inl rfl, checkPayload_passes h⟩

/-- What a configuration that passes Check satisfies, one clause for each group of tests. -/
theorem checkConfig_passes {s : State} (h : (checkConfig s).1 = 0) :
    sizesLegal s ∧ typesKnown s ∧ countsPositive s ∧ parityLegal s ∧
      sumBelow (cfgNfields s.cfg).toNat (fieldBytes s) ≤ s.params.maxPayload := by
  unfold checkConfig at h
  dsimp only at h
  split at h
  · simp at h
  rename_i hstart
  split at h
  · simp at h
  rename_i hfields
  split at h
  · simp at h
  rename_i htypes
  split at h
  · simp at h
  rename_i hcounts
  rw [List.find?_range_eq_none] at htypes hcounts
  obtain ⟨hpars, hpayload⟩ := checkParity_passes h
  refine ⟨⟨by omega, by omega, by omega⟩, fun i hi => ?_, fun i hi => ?_, fun i hi hpar => ?_, hpayload⟩
  · simpa using htypes i hi
  · simpa using hcounts i hi
  · have hmem : ∀ j < (cfgNfields s.cfg).toNat, fieldPar (fieldAt s j) = true →
        j ∈ (List.range (cfgNfields s.cfg).toNat).filter (fun i => fieldPar (fieldAt s i)) :=
      fun j hj hp => List.mem_filter.2 ⟨List.mem_range.2 hj, hp⟩
    rcases hpars with hnil | ⟨q, hq, hcount, hsize⟩
    · rw [hnil] at hmem
      exact absurd (hmem i hi hpar) List.not_mem_nil
    · rw [hq] at hmem
      have honly : ∀ j < (cfgNfields s.cfg).toNat, fieldPar (fieldAt s j) = true → j = q :=
        fun j hj hp => List.mem_singleton.1 (hmem j hj hp)
      obtain rfl := honly i hi hpar
      exact ⟨⟨hi, hpar, honly⟩, hcount, hsize⟩

/-! ### The latched schema is legal (10_state.md R52) -/

/-- A term of a sum fits below the sum: the sum up to it leaves room for it. -/
theorem sumBelow_add_le {n i : Nat} (f : Nat → Nat) (h : i < n) : sumBelow i f + f i ≤ sumBelow n f := by
  rw [← sumBelow_succ]
  exact sumBelow_mono f h

theorem latchSchema_payloadLen (s : State) :
    (latchSchema s).payloadLen = sumBelow (latchSchema s).nf.toNat (schemaBytes (latchSchema s)) := rfl

theorem latchSchema_nelem (s : State) :
    (latchSchema s).nelem = sumBelow (latchSchema s).nf.toNat (schemaCount (latchSchema s)) := rfl

/-- A parity field of a derived schema ends inside the payload when it has at least one byte. -/
theorem parity_in_payload {l : Schema} (hp : (deriveSchema l).ppres = true)
    (hb : ∀ i < l.nf.toNat, 1 ≤ schemaBytes l i) : (deriveSchema l).poff < (deriveSchema l).payloadLen := by
  rcases deriveSchema_parity l with ⟨hno, -⟩ | ⟨-, hlt, -, hoff, -⟩
  · rw [hno] at hp; cases hp
  · have hle : sumBelow (deriveSchema l).pidx (schemaBytes l) + schemaBytes l (deriveSchema l).pidx ≤
        (deriveSchema l).payloadLen := sumBelow_add_le _ hlt
    have := hb _ hlt
    omega

/-- A configuration that passes Check latches a legal schema. -/
theorem latchSchema_legal {s : State} (hv : s.params.Valid) (h : (checkConfig s).1 = 0) :
    LegalSchema s.params (latchSchema s) := by
  obtain ⟨⟨hstart, hnf1, hnf⟩, htypes, hcounts, hpar, hpayload⟩ := checkConfig_passes h
  obtain ⟨-, -, -, -, h32⟩ := hv
  have hfield : ∀ i < (latchSchema s).nf.toNat,
      (schemaEnc (latchSchema s) i).toNat < 8 ∧ 1 ≤ schemaCount (latchSchema s) i := by
    intro i hi
    have him : i < s.params.maxFields := Nat.lt_of_lt_of_le hi hnf
    rw [schemaEnc_latch him h32, schemaCount_latch him h32]
    refine ⟨htypes i hi, Nat.one_le_iff_ne_zero.2 fun hz => hcounts i hi ?_⟩
    exact BitVec.eq_of_toNat_eq hz
  have hcount_le : ∀ i < (latchSchema s).nf.toNat,
      schemaCount (latchSchema s) i ≤ schemaBytes (latchSchema s) i :=
    fun i hi => Nat.le_mul_of_pos_right _ (encSize_known (hfield i hi).1).1
  have hbytes : ∀ i < (latchSchema s).nf.toNat, 1 ≤ schemaBytes (latchSchema s) i :=
    fun i hi => Nat.le_trans (hfield i hi).2 (hcount_le i hi)
  have hnelem : 1 ≤ (latchSchema s).nelem := by
    have hadd := sumBelow_add_le (schemaCount (latchSchema s)) (i := 0) hnf1
    have := (hfield 0 hnf1).2
    rw [latchSchema_nelem, latchSchema_nf]
    omega
  have hle : (latchSchema s).nelem ≤ (latchSchema s).payloadLen := by
    rw [latchSchema_nelem, latchSchema_payloadLen]
    exact sumBelow_le hcount_le
  have hfits : (latchSchema s).payloadLen ≤ s.params.maxPayload := by
    rw [latchSchema_payloadLen, latchSchema_nf,
      sumBelow_congr fun i hi => schemaBytes_latch (Nat.lt_of_lt_of_le hi hnf) h32]
    exact hpayload
  refine ⟨hnf1, hnf, hstart, hfield, rfl, by omega, hfits, hnelem, hle, fun hp => ?_⟩
  rcases deriveSchema_parity (latchSchema s) with ⟨hno, -⟩ | ⟨-, hlt, hq, -, hpenc⟩
  · rw [latchSchema_idem, hp] at hno; cases hno
  rw [latchSchema_idem] at hlt hq hpenc
  refine ⟨parity_in_payload (l := latchSchema s) hp hbytes, ?_⟩
  have hlm := Nat.lt_of_lt_of_le hlt hnf
  rw [schemaPar_latch hlm h32] at hq
  obtain ⟨-, -, hsize⟩ := hpar _ hlt hq
  rw [hpenc, schemaEnc_latch hlm h32]
  exact encSize_eq_one hsize

/-- Settles O21: the construct latches what Check passed. -/
theorem constructedSchemaIsLegal : Obligations.ConstructedSchemaIsLegal := by
  intro s t hi hv hen hcheck h
  have hconstruct : constructDecoder s = newDecoder s := by
    rcases constructDecoder_cases s with ⟨hc, -⟩ | ⟨-, hn⟩
    · exact absurd hcheck hc
    · exact hn
  have ht : t = newDecoder s := by
    simpa [exec, execConstruct, hen, hconstruct, eq_comm] using h
  rw [ht]
  exact latchSchema_legal hv hcheck

end Sys2Proof.Machine
end

section
/-! Laws of the cycle: every operation answers a next state; the three parts of a cycle without a
reset; what its bus access, its core action and its push can do. -/

namespace Sys2Proof.Machine

/-! ### The parts of a cycle -/

/-- Every operation answers a next state (60_exceptions.md R345). -/
theorem exec_next (i : Instr) (s : State) : ∃ t, exec i s = .next t := by
  cases i <;> exact ⟨_, rfl⟩

theorem runOps_next (ops : List Instr) (s : State) : ∃ t, runOps ops s = .next t := by
  induction ops generalizing s with
  | nil => exact ⟨s, rfl⟩
  | cons i rest ih =>
    obtain ⟨t, ht⟩ := exec_next i s
    rw [runOps_cons rest ht]
    exact ih t

theorem runOps_append {ops : List Instr} (rest : List Instr) {s t : State} (h : runOps ops s = .next t) :
    runOps (ops ++ rest) s = runOps rest t := by
  induction ops generalizing s with
  | nil => cases h; rfl
  | cons i ops ih =>
    obtain ⟨u, hu⟩ := exec_next i s
    rw [runOps_cons ops hu] at h
    rw [List.cons_append, runOps_cons _ hu, ih h]

/-- The state in which the operations of a cycle start: the inputs taken, the output ports driven. -/
abbrev cycleStart (s : State) : State := drivePorts (takeInput s)

/-- The bus access of the cycle takes the cycle's start to `a`. -/
abbrev BusAccess (s a : State) : Prop :=
  runOps (busOp (nextInput s) (takeInput s)) (cycleStart s) = .next a

/-- A cycle without a reset is its bus access, its core action and its push, in that order. -/
theorem step_parts {s : State} (hrst : (nextInput s).rst = false) : ∃ a b t,
    BusAccess s a ∧ exec (coreOp s) a = .next b ∧ runOps (pushOp (nextInput s)) b = .next t ∧
      step s = .next t := by
  obtain ⟨a, ha⟩ := runOps_next (busOp (nextInput s) (takeInput s)) (cycleStart s)
  obtain ⟨b, hb⟩ := exec_next (coreOp s) a
  obtain ⟨t, ht⟩ := runOps_next (pushOp (nextInput s)) b
  refine ⟨a, b, t, ha, hb, ht, ?_⟩
  calc step s
      = runOps (busOp (nextInput s) (takeInput s) ++ coreOp s :: pushOp (nextInput s)) (cycleStart s) := by
        simp [step, hrst, cycleOps]
    _ = runOps (coreOp s :: pushOp (nextInput s)) a := runOps_append _ ha
    _ = runOps (pushOp (nextInput s)) b := runOps_cons _ hb
    _ = .next t := ht

/-! ### The bus access -/

/-- Everything a bus write of `d` to the word address `n` can do. -/
inductive BusWrite (s : State) (n : Nat) (d : Word) : State → Prop
  | quiet : BusWrite s n d s
  | construct (hn : n = 2) (hd : d.getLsbD 0 = true) (hen : s.en = false) : BusWrite s n d (constructDecoder s)
  | stop : BusWrite s n d (stopDecoder s)
  | ignored : BusWrite s n d (ignoredCfgWrite s)
  | cfg : BusWrite s n d { s with cfg := d &&& cfgMask }
  | start (w : BitVec 4) (hw : w.toNat < s.params.startWords) :
      BusWrite s n d { s with start := s.start.setIfInBounds w.toNat d }
  | field (i : BitVec 5) (hi : i.toNat < s.params.maxFields) :
      BusWrite s n d { s with field := s.field.setIfInBounds i.toNat (d &&& fieldMask) }
  | clearWerr : BusWrite s n d { s with werr := false }
  | pop (hn : n = 12) (hd : d.getLsbD 0 = true) : BusWrite s n d { s with outValid := false }

/-- A guarded write is the write itself or an ignored one. -/
theorem BusWrite.guarded {s t : State} {n : Nat} {d : Word} (h : BusWrite s n d t) :
    BusWrite s n d (cfgWrite s t) := by
  unfold cfgWrite
  split
  · exact .ignored
  · exact h

/-- The inversion of a bus write, by the slot it goes to. -/
theorem exec_busWrite (s : State) (a : BitVec 12) (d : Word) :
    ∃ t, exec (decodeBus s.params true a d) s = .next t ∧ BusWrite s (a.toNat / 4) d t := by
  have hn : a.toNat / 4 < 1024 := by have := a.isLt; omega
  have hword := word_locate s.params hn
  cases h : locate s.params (a.toNat / 4) with
    (rw [h] at hword; rw [decodeBus_write_of_locate d h]; refine ⟨_, rfl, ?_⟩)
  | ctrl =>
    split_ifs with h1 h2
    · rw [Bool.and_eq_true, Bool.not_eq_true'] at h1
      exact .construct hword.symm h1.1 h1.2
    · exact .stop
    · exact .quiet
  | cfg => exact BusWrite.cfg.guarded
  | start w =>
    have hw := start_implemented hn h
    rw [if_pos hw]
    exact (BusWrite.start w hw).guarded
  | field i =>
    have hi := field_implemented hn h
    rw [if_pos hi]
    exact (BusWrite.field i hi).guarded
  | err =>
    split
    · exact .clearWerr
    · exact .quiet
  | recctrl =>
    split_ifs with h1
    · rw [Bool.and_eq_true] at h1
      exact .pop hword.symm h1.1
    · exact .quiet
  | id | params | status | layout | parity | fillpend | seeks | pfail | psucc | headptr
  | recRaw _ | recElem _ | unmapped _ => exact .quiet

/-- A bus read only drives the port. -/
theorem exec_busRead (s : State) (p : Params) (a : BitVec 12) (d : Word) :
    ∃ v, exec (decodeBus p false a d) s = .next (setRdata s v) := by
  rw [decodeBus_read_of_locate d rfl]
  cases locate p (a.toNat / 4) <;> exact ⟨_, rfl⟩

/-- A write of 1 to RECCTRL leaves OUT_VALID = 0 and the rest as it is (44_record_output.md R286). -/
theorem exec_popWrite {s : State} {a : BitVec 12} {d : Word} (ha : a.toNat / 4 = 12)
    (hd : d.getLsbD 0 = true) : exec (decodeBus s.params true a d) s = .next { s with outValid := false } := by
  have hl : locate s.params (a.toNat / 4) = .recctrl := by rw [ha]; rfl
  rw [decodeBus_write_of_locate d hl]
  change Host.Outcome.next (if d.getLsbD 0 && s.outValid then { s with outValid := false } else s) = _
  rw [hd, Bool.true_and]
  split
  · rfl
  · rename_i h
    rw [← Bool.not_eq_true _ |>.mp h]

/-- The bus access of a cycle with a write is that write, whichever effect a write to CTRL is given. -/
theorem busAccess_write {s a : State} (hr : (nextInput s).busReq = 2) (h : BusAccess s a) :
    exec (decodeBus (cycleStart s).params true (nextInput s).busAddr (nextInput s).busWdata) (cycleStart s) =
      .next a := by
  obtain ⟨t, ht⟩ := exec_next (resolveCtrl (takeInput s)
    (decodeBus (takeInput s).params true (nextInput s).busAddr (nextInput s).busWdata)) (cycleStart s)
  rw [BusAccess, busOp_write _ hr, runOps_cons [] ht, runOps_nil] at h
  rw [exec_resolveCtrl (pre := takeInput s) (s := cycleStart s) rfl] at ht
  exact ht.trans h

/-- The bus access of a cycle drives the read port, or is a write. -/
theorem busAccess_cases {s a : State} (h : BusAccess s a) :
    (∃ v, a = setRdata (cycleStart s) v) ∨
      ((nextInput s).busReq = 2 ∧
        BusWrite (cycleStart s) ((nextInput s).busAddr.toNat / 4) (nextInput s).busWdata a) := by
  have hreq : ∀ r : BitVec 2, (r = 0 ∨ r = 3) ∨ r = 1 ∨ r = 2 := by decide
  rcases hreq (nextInput s).busReq with hr | hr | hr
  · rw [BusAccess, busOp_none _ hr] at h
    cases h
    exact .inl ⟨0, rfl⟩
  · obtain ⟨v, hv⟩ := exec_busRead (cycleStart s) (takeInput s).params (nextInput s).busAddr 0
    rw [BusAccess, busOp_read _ hr, runOps_cons [] hv] at h
    cases h
    exact .inl ⟨v, rfl⟩
  · obtain ⟨t, ht, hw⟩ := exec_busWrite (cycleStart s) (nextInput s).busAddr (nextInput s).busWdata
    cases ht.symm.trans (busAccess_write hr h)
    exact .inr ⟨hr, hw⟩

/-- The bus access of a POP cycle. -/
theorem busAccess_pop {s a : State} (h : BusAccess s a) (hpop : writesWord s 12 true) :
    a = { cycleStart s with outValid := false } := by
  obtain ⟨hr, ha, hd⟩ := hpop
  exact Host.Outcome.next.inj ((busAccess_write hr h).symm.trans (exec_popWrite ha hd))

/-- The elements that no bus access but a successful construct writes. -/
structure StreamKept (s t : State) : Prop where
  params : t.params = s.params
  sv : t.sv = s.sv
  schema : t.schema = s.schema
  progress : t.progress = s.progress
  ring : t.ring = s.ring
  head : t.head = s.head
  fill : t.fill = s.fill
  pend : t.pend = s.pend
  out : t.out = s.out
  seeks : t.seeks = s.seeks
  pfail : t.pfail = s.pfail
  psucc : t.psucc = s.psucc
  inReady : t.inReady = s.inReady

theorem StreamKept.accumFlag_eq {s t : State} (h : StreamKept s t) : accumFlag t = accumFlag s := by
  simp only [accumFlag, h.sv, h.progress, h.schema]

theorem StreamKept.fullFlag_eq {s t : State} (h : StreamKept s t) : fullFlag t = fullFlag s := by
  simp only [fullFlag, h.accumFlag_eq, h.fill, h.schema]

/-- A construct that fails records the error and keeps the rest. -/
theorem streamKept_constructDecoder {s : State} (h : (checkConfig s).1 ≠ 0) :
    StreamKept s (constructDecoder s) := by
  rcases constructDecoder_cases s with ⟨-, he⟩ | ⟨hpass, -⟩
  · rw [he]; constructor <;> rfl
  · exact absurd hpass h

theorem BusWrite.streamKept {s t : State} {n : Nat} {d : Word} (h : BusWrite s n d t)
    (hc : ¬(n = 2 ∧ d.getLsbD 0 = true ∧ s.en = false ∧ (checkConfig s).1 = 0)) : StreamKept s t := by
  cases h with
  | construct hn hd hen => exact streamKept_constructDecoder fun hpass => hc ⟨hn, hd, hen, hpass⟩
  | quiet | stop | ignored | cfg | start _ _ | field _ _ | clearWerr | pop _ _ => constructor <;> rfl

/-- The bus access of a cycle that is no successful construct keeps the decoder's stream state. -/
theorem busAccess_streamKept {s a : State} (h : BusAccess s a) (hc : ¬constructsNext s) :
    StreamKept (cycleStart s) a := by
  rcases busAccess_cases h with ⟨v, rfl⟩ | ⟨hr, hw⟩
  · constructor <;> rfl
  · exact hw.streamKept fun ⟨hn, hd, hen, hpass⟩ => hc ⟨⟨hr, hn, hd⟩, hen, hpass⟩

/-- Without a POP and a successful construct the bus access keeps OUT_VALID. -/
theorem busAccess_outValid {s a : State} (h : BusAccess s a) (hc : ¬constructsNext s)
    (hp : ¬writesWord s 12 true) : a.outValid = s.outValid := by
  rcases busAccess_cases h with ⟨v, rfl⟩ | ⟨hr, hw⟩
  · rfl
  · cases hw with
    | construct hn hd hen =>
      rcases constructDecoder_cases (cycleStart s) with ⟨-, he⟩ | ⟨hpass, -⟩
      · rw [he]; rfl
      · exact absurd ⟨⟨hr, hn, hd⟩, hen, hpass⟩ hc
    | pop hn hd => exact absurd ⟨hr, hn, hd⟩ hp
    | quiet | stop | ignored | cfg | start _ _ | field _ _ | clearWerr => rfl

/-- Without a construct attempt the bus access keeps ERR.CODE and ERR.FIDX. -/
theorem busAccess_err {s a : State} (h : BusAccess s a) (hc : ¬(writesWord s 2 true ∧ s.en = false)) :
    a.errCode = s.errCode ∧ a.errFidx = s.errFidx := by
  rcases busAccess_cases h with ⟨v, rfl⟩ | ⟨hr, hw⟩
  · exact ⟨rfl, rfl⟩
  · cases hw with
    | construct hn hd hen => exact absurd ⟨⟨hr, hn, hd⟩, hen⟩ hc
    | quiet | stop | ignored | cfg | start _ _ | field _ _ | clearWerr | pop _ _ => exact ⟨rfl, rfl⟩

/-! ### The push -/

/-- The push of a cycle takes the offered byte or changes nothing. -/
theorem runOps_pushOp_cases {c : CycleIn} {s t : State} (h : runOps (pushOp c) s = .next t) :
    t = s ∨ s.inReady = true ∧ t = pushByte s c.inData := by
  unfold pushOp at h
  split at h
  · rw [runOps_cons [] (show exec (.push c.inData) s = .next _ from rfl)] at h
    cases h
    split
    · rename_i hready
      exact .inr ⟨hready, rfl⟩
    · exact .inl rfl
  · cases h
    exact .inl rfl

end Sys2Proof.Machine
end

section
/-! The flags and their writers (10_state.md R58), with obligation O53. -/

namespace Sys2Proof.Machine

/-- Each counter has one core action that writes it; OUT_VALID becomes 1 by an accept, and ERR stays. -/
theorem coreAction_flags {s a b : State} (h : exec (coreOp s) a = .next b) :
    (coreOp s ≠ .scanSeekMiss → b.seeks = a.seeks) ∧ (coreOp s ≠ .validateReject → b.pfail = a.pfail) ∧
    (coreOp s ≠ .validateAccept ∨ a.schema.ppres = false → b.psucc = a.psucc) ∧
    (coreOp s = .validateAccept → b.outValid = true) ∧
    (coreOp s ≠ .validateAccept → b.outValid = a.outValid) ∧
    b.errCode = a.errCode ∧ b.errFidx = a.errFidx := by
  rcases coreOp_cases s with ⟨hc, -⟩ | ⟨hc, -⟩ | ⟨hc, -⟩ | ⟨hc, -⟩ | ⟨hc, -⟩ | ⟨hc, -⟩ | ⟨hc, -⟩ | ⟨hc, -⟩ <;>
    rw [hc] at h ⊢ <;> cases h <;> simp +contextual

/-- A push writes no flag. -/
theorem pushOp_flags {c : CycleIn} {s t : State} (h : runOps (pushOp c) s = .next t) :
    t.seeks = s.seeks ∧ t.pfail = s.pfail ∧ t.psucc = s.psucc ∧ t.outValid = s.outValid ∧
    t.errCode = s.errCode ∧ t.errFidx = s.errFidx := by
  rcases runOps_pushOp_cases h with rfl | ⟨-, rfl⟩ <;> exact ⟨rfl, rfl, rfl, rfl, rfl, rfl⟩

/-- Settles O53: the bus access and the push keep the counters, and OUT_VALID and ERR change in the part
of the cycle that names them. -/
theorem flagsHaveTheirWriters : Obligations.FlagsHaveTheirWriters := by
  intro s hrst hc
  obtain ⟨a, b, t, ha, hb, ht, hstep⟩ := step_parts hrst
  have hkept := busAccess_streamKept ha hc
  obtain ⟨hseeks, hpfail, hpsucc, haccept, hvalid, hcode, hfidx⟩ := coreAction_flags hb
  rw [hkept.seeks] at hseeks
  rw [hkept.pfail] at hpfail
  rw [hkept.psucc, hkept.schema] at hpsucc
  obtain ⟨tseeks, tpfail, tpsucc, tvalid, tcode, tfidx⟩ := pushOp_flags ht
  rw [← tseeks] at hseeks
  rw [← tpfail] at hpfail
  rw [← tpsucc] at hpsucc
  rw [← tvalid] at haccept hvalid
  refine ⟨t, hstep, hseeks, hpfail, hpsucc, haccept, fun hne hpop => ?pop, fun hne hpop => ?stay, fun hno => ?err⟩
  case pop => rw [hvalid hne, busAccess_pop ha hpop]
  case stay => rw [hvalid hne, busAccess_outValid ha hc hpop]
  case err =>
    obtain ⟨acode, afidx⟩ := busAccess_err ha hno
    exact ⟨tcode.trans (hcode.trans acode), tfidx.trans (hfidx.trans afidx)⟩

end Sys2Proof.Machine
end

section
/-! The invariant is kept by every part of a cycle (10_state.md R57), and so by the step: obligation
O51. -/

namespace Sys2Proof.Machine

/-! ### Facts of the invariant -/

/-- Once SV = 1 the latched schema is legal. -/
theorem Inv.legalSchema {s : State} (h : Inv s) (hsv : s.sv = true) : LegalSchema s.params s.schema := by
  obtain ⟨-, -, hlatched, -⟩ := h
  rwa [SchemaLatched, if_pos hsv] at hlatched

/-- Once SV = 1 the payload has at least one byte and fits the ring. -/
theorem Inv.payloadLen_bounds {s : State} (h : Inv s) (hsv : s.sv = true) :
    1 ≤ s.schema.payloadLen ∧ s.schema.payloadLen ≤ ringCap s := by
  obtain ⟨-, -, -, -, -, hpos, hle, -⟩ := h.legalSchema hsv
  exact ⟨hpos, hle⟩

/-- The index of a ring byte lies in the ring. -/
theorem Inv.ringIndex_lt {s : State} (h : Inv s) (k : Nat) : ringIndex s k < ringCap s := by
  obtain ⟨⟨hcap, -⟩, -⟩ := h
  exact Nat.mod_lt _ hcap

theorem Inv.fill_le {s : State} (h : Inv s) : s.fill ≤ s.schema.payloadLen := by
  obtain ⟨-, ⟨-, hfill, -⟩, -⟩ := h
  exact hfill

/-- A core that is still seeking has more start bytes to match and no payload byte. -/
theorem Inv.seeking {s : State} (h : Inv s) (hsv : s.sv = true) (hacc : accumFlag s = false) :
    s.progress < s.schema.startLen.toNat ∧ s.fill = 0 := by
  obtain ⟨-, ⟨-, -, hprog, hseek, -⟩, -⟩ := h
  have hne : s.progress ≠ s.schema.startLen.toNat := fun he => by
    rw [(accumFlag_iff s).2 ⟨hsv, he⟩] at hacc
    cases hacc
  have hlt : s.progress < s.schema.startLen.toNat := by omega
  exact ⟨hlt, hseek hlt⟩

/-- A state with FULL = 1 has a latched schema and its payload in the ring. -/
theorem full_state {s : State} (h : fullFlag s = true) : s.sv = true ∧ s.fill = s.schema.payloadLen := by
  obtain ⟨hacc, hfill⟩ := (fullFlag_iff s).1 h
  exact ⟨((accumFlag_iff s).1 hacc).1, hfill⟩

/-! ### Registers -/

theorem startAt_set (s : State) (w v : Nat) (d : Word) :
    startAt { s with start := s.start.setIfInBounds w d } v =
      if w = v ∧ v < 16 then d else startAt s v := by
  simp only [startAt, Vector.getElem?_setIfInBounds]
  by_cases h : w = v <;> by_cases hv : v < 16 <;> simp [h, hv]

theorem fieldAt_set (s : State) (i j : Nat) (d : Word) :
    fieldAt { s with field := s.field.setIfInBounds i d } j =
      if i = j ∧ j < 32 then d else fieldAt s j := by
  simp only [fieldAt, Vector.getElem?_setIfInBounds]
  by_cases h : i = j <;> by_cases hj : j < 32 <;> simp [h, hj]

/-- What a masked write stores is its own masking. -/
theorem and_mask_idem (d m : Word) : d &&& m = d &&& m &&& m := by
  rw [BitVec.and_assoc, BitVec.and_self]

theorem inv_writeCfg {s : State} (h : Inv s) (d : Word) : Inv { s with cfg := d &&& cfgMask } := by
  obtain ⟨hv, hocc, hlatched, ⟨-, hregs⟩, hstores⟩ := h
  exact ⟨hv, hocc, hlatched, ⟨and_mask_idem d cfgMask, hregs⟩, hstores⟩

theorem inv_writeStart {s : State} (h : Inv s) {w : Nat} (hw : w < s.params.startWords) (d : Word) :
    Inv { s with start := s.start.setIfInBounds w d } := by
  obtain ⟨hv, hocc, hlatched, ⟨hcfg, hfield, hstart, hrest⟩, hstores⟩ := h
  refine ⟨hv, hocc, hlatched, ⟨hcfg, hfield, fun j hj hjw => ?_, hrest⟩, hstores⟩
  have hne : s.params.startWords ≤ j := hjw
  rw [startAt_set, if_neg (by omega)]
  exact hstart j hj hjw

theorem inv_writeField {s : State} (h : Inv s) {i : Nat} (hi : i < s.params.maxFields) (d : Word) :
    Inv { s with field := s.field.setIfInBounds i (d &&& fieldMask) } := by
  obtain ⟨hv, hocc, hlatched, ⟨hcfg, hmask, hstart, hzero, herr⟩, hstores⟩ := h
  refine ⟨hv, hocc, hlatched, ⟨hcfg, fun j hj => ?mask, hstart, fun j hj hjm => ?zero, herr⟩, hstores⟩
  case mask =>
    rw [fieldAt_set]
    split
    · exact and_mask_idem d fieldMask
    · exact hmask j hj
  case zero =>
    have hne : s.params.maxFields ≤ j := hjm
    rw [fieldAt_set, if_neg (by omega)]
    exact hzero j hj hjm

/-! ### Construct, stop and POP -/

theorem inv_newDecoder {s : State} (h : Inv s) (hpass : (checkConfig s).1 = 0) : Inv (newDecoder s) := by
  obtain ⟨hv, -, -, ⟨hcfg, hmask, hstart, hzero, -⟩, hstores⟩ := h
  obtain ⟨hcap, -⟩ := id hv
  have hocc : Occupancy (newDecoder s) :=
    ⟨Nat.zero_le _, Nat.zero_le _, Nat.zero_le _, fun _ => rfl, fun _ => Nat.zero_le _, fun _ => rfl, nofun,
      hcap⟩
  exact ⟨hv, hocc, latchSchema_legal hv hpass, ⟨hcfg, hmask, hstart, hzero, Nat.zero_le 8, nofun⟩, hstores⟩

/-- A construct starts a new decoder, or records an error that Check can answer. -/
theorem inv_constructDecoder {s : State} (h : Inv s) : Inv (constructDecoder s) := by
  rcases constructDecoder_cases s with ⟨-, he⟩ | ⟨hpass, hn⟩
  · obtain ⟨hv, hocc, hlatched, ⟨hcfg, hmask, hstart, hzero, -⟩, hstores⟩ := h
    rw [he]
    exact ⟨hv, hocc, hlatched, ⟨hcfg, hmask, hstart, hzero, checkConfig_errLegal s⟩, hstores⟩
  · rw [hn]
    exact inv_newDecoder h hpass

theorem inv_stopDecoder {s : State} (h : Inv s) : Inv (stopDecoder s) := by
  obtain ⟨hv, ⟨hcap, hfill, hprog, hseek, hfull, -, hrest⟩, hlatched, hregs, hstores⟩ := h
  exact ⟨hv, ⟨hcap, hfill, hprog, hseek, hfull, nofun, hrest⟩, hlatched, hregs, hstores⟩

theorem inv_pop {s : State} (h : Inv s) : Inv { s with outValid := false } := by
  obtain ⟨hv, hocc, hlatched, hregs, hstores⟩ := h
  refine ⟨hv, hocc, ?_, hregs, hstores⟩
  rw [SchemaLatched] at hlatched ⊢
  split at hlatched
  · rename_i hsv
    rw [if_pos hsv]
    exact hlatched
  · rename_i hsv
    rw [if_neg hsv]
    exact ⟨hlatched.1, rfl⟩

theorem BusWrite.inv {s t : State} {n : Nat} {d : Word} (hw : BusWrite s n d t) (h : Inv s) : Inv t := by
  cases hw with
  | construct _ _ _ => exact inv_constructDecoder h
  | stop => exact inv_stopDecoder h
  | cfg => exact inv_writeCfg h d
  | start w hw => exact inv_writeStart h hw d
  | field i hi => exact inv_writeField h hi d
  | pop _ _ => exact inv_pop h
  | quiet | ignored | clearWerr => exact h

theorem busAccess_inv {s a : State} (ha : BusAccess s a) (h : Inv s) : Inv a := by
  rcases busAccess_cases ha with ⟨v, rfl⟩ | ⟨-, hw⟩
  · exact h
  · exact hw.inv h

/-! ### Core actions -/

/-- A seeking core that drops the byte at HEAD, with any legal PROGRESS after it. -/
theorem inv_dropHead {s : State} (h : Inv s) (hsv : s.sv = true) (hacc : accumFlag s = false) {n : Nat}
    (hn : n ≤ s.schema.startLen.toNat) (c : Word) : Inv { dropHead s with progress := n, seeks := c } := by
  have hpay := (h.payloadLen_bounds hsv).1
  have hhead := h.ringIndex_lt 1
  have hfill0 := (h.seeking hsv hacc).2
  obtain ⟨hv, ⟨hcap, hfill, -, -, -, hen, -⟩, hlatched, hregs, hstores⟩ := h
  refine ⟨hv, ⟨?sum, hfill, hn, fun _ => hfill0, fun hfull => ?full, hen, fun hno => ?unlatched, hhead⟩,
    hlatched, hregs, hstores⟩
  case sum => exact Nat.le_trans (Nat.add_le_add_left (Nat.sub_le _ _) _) hcap
  case full =>
    have hlen : s.fill = s.schema.payloadLen := (full_state hfull).2
    omega
  case unlatched => exact absurd (hno.symm.trans hsv) Bool.false_ne_true

theorem inv_scanAccum {s : State} (h : Inv s) (hfull : fullFlag s = false) (hpend : 0 < s.pend)
    (hacc : accumFlag s = true) : Inv { s with fill := s.fill + 1, pend := s.pend - 1 } := by
  obtain ⟨hsv, hprog⟩ := (accumFlag_iff s).1 hacc
  have hne : s.fill ≠ s.schema.payloadLen := fun he => by
    rw [(fullFlag_iff s).2 ⟨hacc, he⟩] at hfull
    cases hfull
  obtain ⟨hv, ⟨hcap, hfill, hprog', -, -, hen, -, hhead⟩, hlatched, hregs, hstores⟩ := h
  refine ⟨hv, ⟨?sum, ?fill, hprog', fun hlt => ?seek, fun hf => ?full, hen, fun hno => ?unlatched, hhead⟩,
    hlatched, hregs, hstores⟩
  case sum =>
    change s.fill + 1 + (s.pend - 1) ≤ ringCap s
    omega
  case fill =>
    change s.fill + 1 ≤ s.schema.payloadLen
    omega
  case seek => exact absurd hprog (Nat.ne_of_lt hlt)
  case full =>
    have hlen : s.fill + 1 = s.schema.payloadLen := (full_state hf).2
    change s.pend - 1 ≤ ringCap s - s.schema.payloadLen
    omega
  case unlatched => exact absurd (hno.symm.trans hsv) Bool.false_ne_true

/-- An empty payload at PROGRESS = 0, with `m` pending bytes, `k` bytes further in the ring. -/
theorem occupancy_restart {s : State} (h : Inv s) (hsv : s.sv = true) {m : Nat} (hm : m ≤ ringCap s) (k : Nat) :
    Occupancy { s with head := ringIndex s k, pend := m, fill := 0, progress := 0 } := by
  have hpay := (h.payloadLen_bounds hsv).1
  have hhead := h.ringIndex_lt k
  refine ⟨(Nat.zero_add m).le.trans hm, Nat.zero_le _, Nat.zero_le _, fun _ => rfl, fun hf => ?full, fun _ => hsv,
    fun hno => ?unlatched, hhead⟩
  case full =>
    have hlen : 0 = s.schema.payloadLen := (full_state hf).2
    omega
  case unlatched => exact absurd (hno.symm.trans hsv) Bool.false_ne_true

theorem inv_accept {s : State} (h : Inv s) (hfull : fullFlag s = true) (c : Word) :
    Inv { s with
      out := copyPayload s s.schema.payloadLen, outValid := true, head := ringIndex s s.schema.payloadLen,
      fill := 0, progress := 0, psucc := c } := by
  obtain ⟨hsv, hfill⟩ := full_state hfull
  have hlegal := h.legalSchema hsv
  have hfits := (h.payloadLen_bounds hsv).2
  obtain ⟨hv, ⟨hcap, -⟩, -, hregs, ⟨hring, hout, hringIn, houtIn⟩⟩ := id h
  have hocc := occupancy_restart h hsv (m := s.pend) (by omega) s.schema.payloadLen
  refine ⟨hv, hocc, ?_, hregs, hring, (copyPayload_spec s _ hout).1, hringIn, copyPayload_within s houtIn hfits⟩
  rw [SchemaLatched, if_pos hsv]
  exact hlegal

theorem inv_reject {s : State} (h : Inv s) (hfull : fullFlag s = true) (c : Word) :
    Inv { s with
      head := ringIndex s 1, pend := s.pend + s.schema.payloadLen - 1, fill := 0, progress := 0,
      pfail := c } := by
  obtain ⟨hsv, hfill⟩ := full_state hfull
  obtain ⟨hv, ⟨hcap, -⟩, hlatched, hregs, hstores⟩ := id h
  exact ⟨hv, occupancy_restart h hsv (by omega) 1, hlatched, hregs, hstores⟩

/-- Everything a core action can do in a state of the invariant, with the signals it is chosen under. -/
inductive CoreStep (s : State) : State → Prop
  | idle : CoreStep s s
  | seek (hsv : s.sv = true) (hacc : accumFlag s = false) {n : Nat} (hn : n ≤ s.schema.startLen.toNat) (c : Word) :
      CoreStep s { dropHead s with progress := n, seeks := c }
  | accum (hfull : fullFlag s = false) (hpend : 0 < s.pend) (hacc : accumFlag s = true) :
      CoreStep s { s with fill := s.fill + 1, pend := s.pend - 1 }
  | accept (hfull : fullFlag s = true) (c : Word) :
      CoreStep s { s with
        out := copyPayload s s.schema.payloadLen, outValid := true, head := ringIndex s s.schema.payloadLen,
        fill := 0, progress := 0, psucc := c }
  | reject (hfull : fullFlag s = true) (c : Word) :
      CoreStep s { s with
        head := ringIndex s 1, pend := s.pend + s.schema.payloadLen - 1, fill := 0, progress := 0,
        pfail := c }

/-- The inversion of the core action that `s` selects, run on a state `a` with the same stream state. -/
theorem coreAction_step {s a b : State} (hb : exec (coreOp s) a = .next b) (hsame : StreamKept s a)
    (ha : Inv a) (hen : s.en = true → s.sv = true) : CoreStep a b := by
  rcases coreOp_cases s with ⟨hc, -⟩ | ⟨hc, -, hfull, -⟩ | ⟨hc, -⟩ | ⟨hc, -, hfull, -⟩ | ⟨hc, -⟩ |
    ⟨hc, -, hfull, hpend, hacc⟩ | ⟨hc, he, -, -, hacc, -⟩ | ⟨hc, he, -, -, hacc, -⟩ <;>
    rw [hc] at hb <;> cases hb
  · exact .idle
  · exact .accept (hsame.fullFlag_eq.trans hfull) _
  · exact .idle
  · exact .reject (hsame.fullFlag_eq.trans hfull) _
  · exact .idle
  · exact .accum (hsame.fullFlag_eq.trans hfull) (hsame.pend ▸ hpend) (hsame.accumFlag_eq.trans hacc)
  · have hsv := hsame.sv.trans (hen he)
    have hseek := hsame.accumFlag_eq.trans hacc
    exact .seek hsv hseek (ha.seeking hsv hseek).1 a.seeks
  · exact .seek (hsame.sv.trans (hen he)) (hsame.accumFlag_eq.trans hacc) (Nat.zero_le _) _

theorem CoreStep.inv {s t : State} (hstep : CoreStep s t) (h : Inv s) : Inv t := by
  cases hstep with
  | idle => exact h
  | seek hsv hacc hn c => exact inv_dropHead h hsv hacc hn c
  | accum hfull hpend hacc => exact inv_scanAccum h hfull hpend hacc
  | accept hfull c => exact inv_accept h hfull c
  | reject hfull c => exact inv_reject h hfull c

/-- A core action does not raise the number of bytes held (42_synchronizer.md R229). -/
theorem CoreStep.held_le {s t : State} (hstep : CoreStep s t) : t.fill + t.pend ≤ s.fill + s.pend := by
  cases hstep with
  | idle => exact Nat.le_refl _
  | seek _ _ _ _ => exact Nat.add_le_add_left (Nat.sub_le _ _) _
  | accum _ hpend _ =>
    change s.fill + 1 + (s.pend - 1) ≤ s.fill + s.pend
    omega
  | accept _ _ => exact Nat.add_le_add_right (Nat.zero_le _) _
  | reject hfull _ =>
    have hfill := (full_state hfull).2
    change 0 + (s.pend + s.schema.payloadLen - 1) ≤ s.fill + s.pend
    omega

theorem CoreStep.kept {s t : State} (hstep : CoreStep s t) :
    t.params = s.params ∧ t.sv = s.sv ∧ t.inReady = s.inReady := by
  cases hstep <;> exact ⟨rfl, rfl, rfl⟩

/-! ### The push -/

/-- A byte pushed where the ring has room. -/
theorem inv_pushByte {s : State} (h : Inv s) (hsv : s.sv = true) (hroom : s.fill + s.pend < ringCap s) (b : Byte) :
    Inv (pushByte s b) := by
  have htail : ringTail s < s.params.maxPayload := h.ringIndex_lt _
  obtain ⟨hv, ⟨-, hfill, hprog, hseek, -, hen, -, hhead⟩, hlatched, hregs, ⟨hring, hout, hringIn, houtIn⟩⟩ := h
  refine ⟨hv, ⟨hroom, hfill, hprog, hseek, fun hf => ?full, hen, fun hno => ?unlatched, hhead⟩, hlatched, hregs,
    Memory.wf_write _ b hring, hout, Memory.within_write _ b hringIn htail, houtIn⟩
  case full =>
    have hlen : s.fill = s.schema.payloadLen := (full_state hf).2
    change s.pend + 1 ≤ ringCap s - s.schema.payloadLen
    omega
  case unlatched => exact absurd (hno.symm.trans hsv) Bool.false_ne_true

/-! ### The step -/

/-- No bus access writes the port in_ready. -/
theorem busAccess_inReady {s a : State} (h : BusAccess s a) : a.inReady = readyFlag s := by
  rcases busAccess_cases h with ⟨v, rfl⟩ | ⟨-, hw⟩
  · rfl
  · cases hw with
    | construct _ _ _ =>
      rcases constructDecoder_cases (cycleStart s) with ⟨-, he⟩ | ⟨-, he⟩ <;> rw [he] <;> rfl
    | quiet | stop | ignored | cfg | start _ _ | field _ _ | clearWerr | pop _ _ => rfl

/-- In a cycle that starts with EN = 0 the core idles and no byte is taken: the bus access is all. -/
theorem stopped_cycle {s a b t : State} (hen : s.en = false) (ha : BusAccess s a)
    (hb : exec (coreOp s) a = .next b) (ht : runOps (pushOp (nextInput s)) b = .next t) : t = a := by
  rw [coreOp_eq, if_pos hen] at hb
  cases hb
  rcases runOps_pushOp_cases ht with rfl | ⟨hready, -⟩
  · rfl
  · rw [busAccess_inReady ha, readyFlag, hen] at hready
    cases hready

/-- The operations of a cycle that starts with EN = 1 keep the invariant. -/
theorem running_cycle_inv {s a b t : State} (h : Inv s) (hen : s.en = true) (ha : BusAccess s a)
    (hb : exec (coreOp s) a = .next b) (ht : runOps (pushOp (nextInput s)) b = .next t) : Inv t := by
  have hsv : s.en = true → s.sv = true := by
    obtain ⟨-, ⟨-, -, -, -, -, hsv, -⟩, -⟩ := h
    exact hsv
  have hsame := busAccess_streamKept ha fun ⟨_, hstopped, _⟩ => Bool.false_ne_true (hstopped.symm.trans hen)
  have hainv := busAccess_inv ha h
  have hcore : CoreStep a b := coreAction_step (s := cycleStart s) hb hsame hainv hsv
  have hbinv := hcore.inv hainv
  obtain ⟨bparams, bsv, bready⟩ := hcore.kept
  rcases runOps_pushOp_cases ht with rfl | ⟨hready, rfl⟩
  · exact hbinv
  · rw [bready, busAccess_inReady ha, readyFlag_iff] at hready
    have hroom : b.fill + b.pend < ringCap b := by
      calc b.fill + b.pend ≤ a.fill + a.pend := hcore.held_le
        _ = s.fill + s.pend := by rw [hsame.fill, hsame.pend]; rfl
        _ < ringCap s := hready.2
        _ = ringCap b := by rw [ringCap, ringCap, bparams, hsame.params]; rfl
    exact inv_pushByte hbinv (bsv.trans (hsame.sv.trans (hsv hen))) hroom _

/-- Settles O51: a reset gives the reset state; otherwise the bus access, the core action and the push
each keep the invariant. -/
theorem stepKeepsTheInvariant : Obligations.StepKeepsTheInvariant := by
  intro s h
  cases hrst : (nextInput s).rst with
  | true =>
    have hreset : step s = .next (resetState (takeInput s)) := by simp only [step, hrst, if_true]; rfl
    obtain ⟨hv, -⟩ := h
    exact ⟨_, hreset, inv_resetOf hv⟩
  | false =>
    obtain ⟨a, b, t, ha, hb, ht, hstep⟩ := step_parts hrst
    refine ⟨t, hstep, ?_⟩
    cases hen : s.en with
    | true => exact running_cycle_inv h hen ha hb ht
    | false =>
      rw [stopped_cycle hen ha hb ht]
      exact busAccess_inv ha h

end Sys2Proof.Machine
end

section
/-! The bus access as the spec writes it: a read answers the register map's value (10_state.md R33), and
a write makes the assignments of R85's WriteEffect. -/

namespace Sys2Proof

/-- The slot found at a word address names implemented entries only. -/
theorem locate_wellFormed (p : Params) {n : Nat} (hn : n < 1024) :
    wellFormed p (readInstr (locate p n)) = true := by
  by_cases h : n < 14
  · interval_cases n <;> rfl
  rw [locate_window p (by omega)]
  split_ifs
  case neg =>
    simp only [readInstr, wellFormed, unmappedWord, BitVec.toNat_ofNat, Bool.or_eq_true,
      Bool.and_eq_true, decide_eq_true_eq, beq_iff_eq]
    rw [Nat.mod_eq_of_lt hn]
    omega
  all_goals
    simp only [readInstr, wellFormed, BitVec.toNat_ofNat, decide_eq_true_eq]
    omega

/-- The word address of a byte address lies in the window. -/
theorem wordAddress_lt (a : BitVec 12) : a.toNat / 4 < 1024 := by
  have := a.isLt
  omega

/-- Two halfwords joined, as arithmetic. -/
theorem halfwords_append (x y : Nat) :
    BitVec.ofNat 16 x ++ BitVec.ofNat 16 y = BitVec.ofNat 32 (x % 65536 * 65536 + y % 65536) := by
  apply BitVec.eq_of_toNat_eq
  simp only [toNat_append_add, BitVec.toNat_ofNat]
  omega

/-- The fields of PARAMS joined, as arithmetic (10_state.md R36). -/
theorem paramFields_append (x y z : Nat) :
    BitVec.ofNat 16 x ++ BitVec.ofNat 8 y ++ BitVec.ofNat 8 z =
      BitVec.ofNat 32 (x % 65536 * 65536 + y % 256 * 256 + z % 256) := by
  apply BitVec.eq_of_toNat_eq
  simp only [toNat_append_add, BitVec.toNat_ofNat]
  omega

/-- A flag above a halfword, as arithmetic. -/
theorem flag_append_halfword (b : Bool) (y : Nat) :
    0#15 ++ BitVec.ofBool b ++ BitVec.ofNat 16 y = BitVec.ofNat 32 ((if b then 65536 else 0) + y % 65536) := by
  apply BitVec.eq_of_toNat_eq
  simp only [toNat_append_add, toNat_ofBool_eq, BitVec.toNat_ofNat]
  cases b <;> simp only [Bool.toNat_true, Bool.toNat_false, if_true, Bool.false_eq_true, if_false] <;> omega

end Sys2Proof

namespace Sys2Proof.Machine

/-- A bus read answers the register map's value. -/
theorem exec_read_readValue (s : State) (a : BitVec 12) (d : Word) :
    exec (decodeBus s.params false a d) s = .next (setRdata s (Reference.readValue s a)) := by
  have hwf := locate_wellFormed s.params (wordAddress_lt a)
  unfold Reference.readValue
  cases h : locate s.params (a.toNat / 4) with
    (rw [decodeBus_read_of_locate d h]; rw [h] at hwf
     refine congrArg (fun v => Host.Outcome.next (setRdata s v)) ?_)
  | params => exact paramFields_append _ _ _
  | layout | fillpend => exact halfwords_append _ _
  | parity => exact flag_append_halfword _ _
  | headptr => exact (halfwords_append 0 s.head).trans (by simp)
  | ctrl => cases s.en <;> rfl
  | recRaw w =>
    have hw : w.toNat < s.params.recWords := of_decide_eq_true hwf
    simp only [hw, true_and]
  | recElem k =>
    have hk : k.toNat < s.params.maxPayload := of_decide_eq_true hwf
    simp only [hk, true_and]
  | start w => exact if_pos (of_decide_eq_true hwf)
  | field i => exact if_pos (of_decide_eq_true hwf)
  | id | cfg | status | err | seeks | pfail | psucc | recctrl | unmapped _ => rfl

/-- R85's construct on top of the pre-state itself is CONSTRUCT's pseudocode. -/
theorem constructEffect_self (s : State) : Reference.constructEffect s s = constructDecoder s := by
  unfold Reference.constructEffect
  rcases constructDecoder_cases s with ⟨hc, he⟩ | ⟨hc, he⟩
  · rw [if_pos hc, he]
  · rw [if_neg (not_not.2 hc), he]; rfl

/-- A bus write run on its own pre-state makes the assignments of WriteEffect on it. -/
theorem exec_write_writeEffect (s : State) (a : BitVec 12) (d : Word) :
    exec (decodeBus s.params true a d) s = .next (Reference.writeEffect s s a d) := by
  unfold Reference.writeEffect
  cases h : locate s.params (a.toNat / 4) with
    (rw [decodeBus_write_of_locate d h]; refine congrArg Host.Outcome.next ?_)
  | ctrl =>
    rw [constructEffect_self]
    simp only [Bool.and_eq_true, Bool.not_eq_true']
    rfl
  | start w => exact if_pos (start_implemented (wordAddress_lt a) h)
  | field i => exact if_pos (field_implemented (wordAddress_lt a) h)
  | recctrl => simp only [Bool.and_eq_true]
  | cfg | err | id | params | status | layout | parity | fillpend | seeks | pfail | psucc | headptr
  | recRaw _ | recElem _ | unmapped _ => rfl

end Sys2Proof.Machine
end

section
/-! The cycle as R85 composes it (20_memory.md R85): the core effect on the pre-state, the push on top of
it, the write on top of both, and the outputs. The machine runs the bus access first; the two orders
agree since the write of a running decoder touches no element that the core action or the push reads or
writes, but for OUT_VALID, where a POP excludes an accept. With obligation O8. -/

namespace Sys2Proof.Machine

/-! ### The parts of R85's composition -/

/-- `t` with the outputs of a cycle without a reset whose pre-state is `s` and whose read data is `v`. -/
def withPorts (s t : State) (v : Word) : State :=
  { t with inReady := readyFlag s, recValid := s.outValid, rdata := v }

/-- The read data of the cycle to come. -/
def readPort (s : State) : Word :=
  if (nextInput s).busReq = 1 then Reference.readValue s (nextInput s).busAddr else 0

/-- The write of the cycle to come on top of `t`, with its conditions from `s`. -/
def cycleWrite (s t : State) : State :=
  if (nextInput s).busReq = 2 then Reference.writeEffect s t (nextInput s).busAddr (nextInput s).busWdata
  else t

/-- The push of the cycle to come on top of `t`, with its condition from `s`. -/
def cyclePush (s t : State) : State :=
  if (nextInput s).inValid && readyFlag s then pushByte t (nextInput s).inData else t

/-- R85's composition for a cycle without a reset, with the core action `i`. -/
def composedCycle (s : State) (i : Instr) : State :=
  withPorts s (cycleWrite s (cyclePush s (Reference.coreEffect i (takeInput s)))) (readPort s)

theorem cycle_eq_composedCycle {s : State} (hrst : (nextInput s).rst = false) :
    Reference.cycle s = composedCycle s (Reference.coreAction s) := by
  unfold Reference.cycle
  simp only [hrst, Bool.false_eq_true, if_false]
  rfl

theorem cycle_of_reset {s : State} (hrst : (nextInput s).rst = true) :
    Reference.cycle s = resetState (takeInput s) := by
  unfold Reference.cycle
  simp only [hrst, if_true]

/-! ### The write -/

/-- Everything the write of a cycle can be, as an update of the state it is applied to. -/
inductive CycleWrite (s : State) : (State → State) → Prop
  | quiet : CycleWrite s (fun t => t)
  | construct (h : writesWord s 2 true) (hen : s.en = false) : CycleWrite s (Reference.constructEffect s)
  | stop (hen : s.en = true) : CycleWrite s stopDecoder
  | ignored (hen : s.en = true) : CycleWrite s ignoredCfgWrite
  | cfg (d : Word) (hen : s.en = false) : CycleWrite s (fun t => { t with cfg := d &&& cfgMask })
  | start (w : BitVec 4) (d : Word) (hen : s.en = false) :
      CycleWrite s (fun t => { t with start := t.start.setIfInBounds w.toNat d })
  | field (i : BitVec 5) (d : Word) (hen : s.en = false) :
      CycleWrite s (fun t => { t with field := t.field.setIfInBounds i.toNat (d &&& fieldMask) })
  | clearWerr : CycleWrite s (fun t => { t with werr := false })
  | pop (hov : s.outValid = true) : CycleWrite s (fun t => { t with outValid := false })

/-- A guarded write is ignored while EN = 1 and performed while EN = 0 (40_configuration.md R173). -/
theorem CycleWrite.guarded {s : State} {f : State → State} (h : s.en = false → CycleWrite s f) :
    CycleWrite s (fun t => Reference.cfgWriteEffect s t (f t)) := by
  unfold Reference.cfgWriteEffect
  cases hen : s.en with
  | true => exact .ignored hen
  | false => exact h hen

/-- The inversion of WriteEffect, by the slot it goes to. -/
theorem cycleWrite_cases (s : State) : CycleWrite s (cycleWrite s) := by
  unfold cycleWrite
  by_cases hr : (nextInput s).busReq = 2
  case neg =>
    simp only [hr, if_false]
    exact .quiet
  simp only [hr, if_true]
  unfold Reference.writeEffect
  have hword := word_locate s.params (wordAddress_lt (nextInput s).busAddr)
  cases h : locate s.params ((nextInput s).busAddr.toNat / 4) with dsimp only
  | ctrl =>
    rw [h] at hword
    split_ifs with h1 h2
    · exact .construct ⟨hr, hword.symm, h1.1⟩ h1.2
    · exact .stop h2.2
    · exact .quiet
  | cfg => exact .guarded fun hen => .cfg _ hen
  | start w => exact .guarded fun hen => .start w _ hen
  | field i => exact .guarded fun hen => .field i _ hen
  | err =>
    split_ifs
    · exact .clearWerr
    · exact .quiet
  | recctrl =>
    split_ifs with h1
    · exact .pop h1.2
    · exact .quiet
  | id | params | status | layout | parity | fillpend | seeks | pfail | psucc | headptr
  | recRaw _ | recElem _ | unmapped _ => exact .quiet

/-- A write neither reads nor writes a port. -/
theorem CycleWrite.comm_withPorts {s : State} {f : State → State} (h : CycleWrite s f) (t : State) (v : Word) :
    f (withPorts s t v) = withPorts s (f t) v := by
  cases h with
  | construct _ _ =>
    unfold Reference.constructEffect
    split <;> rfl
  | quiet | stop _ | ignored _ | cfg _ _ | start _ _ _ | field _ _ _ | clearWerr | pop _ => rfl

/-- The write of a running decoder does not disturb a push. -/
theorem CycleWrite.comm_pushByte {s : State} {f : State → State} (h : CycleWrite s f) (hen : s.en = true)
    (t : State) (b : Byte) : pushByte (f t) b = f (pushByte t b) := by
  cases h with
  | construct _ hno | cfg _ hno | start _ _ hno | field _ _ hno => exact absurd (hen.symm.trans hno) nofun
  | quiet | stop _ | ignored _ | clearWerr | pop _ => rfl

theorem CycleWrite.comm_cyclePush {s : State} {f : State → State} (h : CycleWrite s f) (hen : s.en = true)
    (t : State) : cyclePush s (f t) = f (cyclePush s t) := by
  unfold cyclePush
  split
  · exact h.comm_pushByte hen t _
  · rfl

/-! ### The bus access -/

/-- The bus access of a cycle drives the read data and makes the write's assignments. -/
theorem busAccess_eq {s a : State} (h : BusAccess s a) :
    a = withPorts s (cycleWrite s (takeInput s)) (readPort s) := by
  have hreq : ∀ r : BitVec 2, (r = 0 ∨ r = 3) ∨ r = 1 ∨ r = 2 := by decide
  unfold readPort
  rcases hreq (nextInput s).busReq with hr | hr | hr
  · rw [BusAccess, busOp_none _ hr] at h
    cases h
    unfold cycleWrite
    rcases hr with hr | hr <;> simp only [hr] <;> rfl
  · have hread : exec (decodeBus (takeInput s).params false (nextInput s).busAddr 0) (cycleStart s) =
        .next (setRdata (cycleStart s) (Reference.readValue s (nextInput s).busAddr)) :=
      exec_read_readValue (cycleStart s) _ 0
    rw [BusAccess, busOp_read _ hr, runOps_cons [] hread] at h
    cases h
    simp only [cycleWrite, hr]
    rfl
  · have hwrite := (busAccess_write hr h).symm.trans (exec_write_writeEffect (cycleStart s) _ _)
    have hw : cycleWrite s (cycleStart s) = withPorts s (cycleWrite s (takeInput s)) 0 :=
      (cycleWrite_cases s).comm_withPorts (takeInput s) 0
    rw [if_neg (by rw [hr]; decide), ← hw, cycleWrite, if_pos hr]
    exact Host.Outcome.next.inj hwrite

/-! ### The core action and the push -/

/-- The core actions; an accept needs OUT_VALID = 0 (42_synchronizer.md R220). -/
inductive IsCoreAction (s : State) : Instr → Prop
  | idle (row : IdleRow) : IsCoreAction s (.coreIdle row)
  | accept (hov : s.outValid = false) : IsCoreAction s .validateAccept
  | stall : IsCoreAction s .coreStall
  | reject : IsCoreAction s .validateReject
  | accum : IsCoreAction s .scanAccum
  | hit : IsCoreAction s .scanSeekHit
  | miss : IsCoreAction s .scanSeekMiss

theorem coreOp_isCoreAction (s : State) : IsCoreAction s (coreOp s) := by
  rcases coreOp_cases s with ⟨hc, -⟩ | ⟨hc, -, -, -, hov⟩ | ⟨hc, -⟩ | ⟨hc, -⟩ | ⟨hc, -⟩ | ⟨hc, -⟩ | ⟨hc, -⟩ |
    ⟨hc, -⟩ <;> rw [hc]
  · exact .idle _
  · exact .accept hov
  · exact .stall
  · exact .reject
  · exact .idle _
  · exact .accum
  · exact .hit
  · exact .miss

/-- A core action neither reads nor writes a port. -/
theorem IsCoreAction.exec_withPorts {s : State} {i : Instr} (h : IsCoreAction s i) (t : State) (v : Word) :
    exec i (withPorts s t v) = .next (withPorts s (Reference.coreEffect i t) v) := by
  cases h <;> rfl

/-- The write of a running decoder does not disturb the core action: the one element both can write is
OUT_VALID, and the POP that clears it needs OUT_VALID = 1 where the accept that sets it needs 0. -/
theorem IsCoreAction.coreEffect_comm {s : State} {i : Instr} (hi : IsCoreAction s i) {f : State → State}
    (h : CycleWrite s f) (hen : s.en = true) (t : State) :
    Reference.coreEffect i (f t) = f (Reference.coreEffect i t) := by
  cases h with
  | construct _ hno | cfg _ hno | start _ _ hno | field _ _ hno => exact absurd (hen.symm.trans hno) nofun
  | quiet => rfl
  | stop _ | ignored _ | clearWerr => cases hi <;> rfl
  | pop hov =>
    cases hi with
    | accept hno => exact absurd (hov.symm.trans hno) nofun
    | idle _ | stall | reject | accum | hit | miss => rfl

/-- The push of a cycle, which the port in_ready gates, in a state with that cycle's outputs. -/
theorem runOps_pushOp_withPorts (s t : State) (v : Word) :
    runOps (pushOp (nextInput s)) (withPorts s t v) = .next (withPorts s (cyclePush s t) v) := by
  unfold pushOp cyclePush
  cases (nextInput s).inValid with
  | false => rfl
  | true =>
    rw [if_pos rfl, runOps_cons [] rfl, runOps_nil, Bool.true_and]
    change Host.Outcome.next (if readyFlag s then withPorts s (pushByte t _) v else withPorts s t v) = _
    split <;> rfl

/-! ### The step -/

/-- A cycle that starts with EN = 0 is its write and its outputs. -/
theorem composedCycle_stopped {s : State} (hen : s.en = false) :
    composedCycle s (coreOp s) = withPorts s (cycleWrite s (takeInput s)) (readPort s) := by
  have hready : readyFlag s = false := by rw [readyFlag, hen, Bool.false_and]
  rw [composedCycle, coreOp_eq, if_pos hen, cyclePush, hready, Bool.and_false]
  rfl

/-- Every cycle without a reset is R85's composition with the core action the selector names. -/
theorem step_eq_composedCycle {s : State} (hrst : (nextInput s).rst = false) :
    step s = .next (composedCycle s (coreOp s)) := by
  obtain ⟨a, b, t, ha, hb, ht, hstep⟩ := step_parts hrst
  have haccess := busAccess_eq ha
  rw [hstep]
  refine congrArg Host.Outcome.next ?_
  cases hen : s.en with
  | false => rw [stopped_cycle hen ha hb ht, haccess, composedCycle_stopped hen]
  | true =>
    have hw := cycleWrite_cases s
    have hi := coreOp_isCoreAction s
    rw [haccess, hi.exec_withPorts, hi.coreEffect_comm hw hen] at hb
    cases hb
    rw [runOps_pushOp_withPorts, hw.comm_cyclePush hen] at ht
    exact (Host.Outcome.next.inj ht).symm

/-- The selector's HIT also tests SV, which R220 does not: they agree where EN = 1 implies SV = 1. -/
theorem coreOp_eq_coreAction {s : State} (h : s.en = true → s.sv = true) : coreOp s = Reference.coreAction s := by
  rw [coreOp_eq, Reference.coreAction]
  cases hen : s.en with
  | false => rfl
  | true =>
    have hsv := h hen
    cases hfull : fullFlag s with
    | true => simp only [passFlag, hfull, Bool.true_and, Bool.true_eq_false, if_false, if_true]
    | false =>
      rcases Nat.eq_zero_or_pos s.pend with hpend | hpend
      · simp [haveFlag, hpend]
      · cases hacc : accumFlag s <;> simp [haveFlag, hitFlag, hpend, hpend.ne', hsv, hacc]

/-- Settles O8: a reset gives the reset state; any other cycle is the composition, with R220's action. -/
theorem stepIsTheComposedCycle : Obligations.StepIsTheComposedCycle := by
  intro s hsv
  cases hrst : (nextInput s).rst with
  | true =>
    rw [cycle_of_reset hrst]
    simp only [step, hrst, if_true]
    rfl
  | false => rw [step_eq_composedCycle hrst, cycle_eq_composedCycle hrst, coreOp_eq_coreAction hsv]

end Sys2Proof.Machine
end

section
/-! Bus accesses at every address (20_memory.md R82, R83), with obligations O5 and O27. -/

namespace Sys2Proof.Machine

/-- Clearing the two low address bits keeps the word address. -/
theorem wordAddress_mask (a : BitVec 12) : (a &&& 0xFFC).toNat / 4 = a.toNat / 4 := by
  calc (a &&& 0xFFC).toNat / 4
      = (a.toNat &&& 0xFFC) / 2 ^ 2 := rfl
    _ = a.toNat / 2 ^ 2 &&& (2 ^ 10 - 1) := Nat.and_div_two_pow
    _ = a.toNat / 4 % 2 ^ 10 := Nat.and_two_pow_sub_one_eq_mod _ _
    _ = a.toNat / 4 := Nat.mod_eq_of_lt (wordAddress_lt a)

/-- Settles O5: the decoder looks at the word address only, and every operation answers a next state. -/
theorem busDecodeIgnoresLowAddressBits : Obligations.BusDecodeIgnoresLowAddressBits := by
  intro p write a d
  refine ⟨?_, fun s => exec_next _ s⟩
  unfold decodeBus
  rw [wordAddress_mask]

/-- Settles O27: a bus read only drives the port. -/
theorem readsHaveNoSideEffect : Obligations.ReadsHaveNoSideEffect :=
  fun p a d s => exec_busRead s p a d

end Sys2Proof.Machine
end

section
/-! What a cycle does to the configuration registers and the latched schema (20_memory.md R89), read off
R85's composition, with obligations O54 and O55. -/

namespace Sys2Proof.Machine

/-- The configuration registers, the latched schema and SV are the same. -/
structure ConfigKept (s t : State) : Prop where
  cfg : t.cfg = s.cfg
  start : t.start = s.start
  field : t.field = s.field
  schema : t.schema = s.schema
  sv : t.sv = s.sv

theorem IsCoreAction.configKept {s : State} {i : Instr} (h : IsCoreAction s i) (t : State) :
    ConfigKept t (Reference.coreEffect i t) := by
  cases h <;> constructor <;> rfl

theorem cyclePush_configKept (s t : State) : ConfigKept t (cyclePush s t) := by
  unfold cyclePush
  split <;> constructor <;> rfl

/-- The core action and the push of a cycle keep the configuration. -/
theorem streamPart_configKept (s : State) :
    ConfigKept s (cyclePush s (Reference.coreEffect (coreOp s) (takeInput s))) := by
  have hcore := (coreOp_isCoreAction s).configKept (takeInput s)
  have hpush := cyclePush_configKept s (Reference.coreEffect (coreOp s) (takeInput s))
  exact ⟨hpush.cfg.trans hcore.cfg, hpush.start.trans hcore.start, hpush.field.trans hcore.field,
    hpush.schema.trans hcore.schema, hpush.sv.trans hcore.sv⟩

/-- The write of a running decoder keeps the configuration. -/
theorem CycleWrite.configKept {s : State} {f : State → State} (h : CycleWrite s f) (hen : s.en = true)
    (t : State) : ConfigKept t (f t) := by
  cases h with
  | construct _ hno | cfg _ hno | start _ _ hno | field _ _ hno => exact absurd (hen.symm.trans hno) nofun
  | quiet | stop _ | ignored _ | clearWerr | pop _ => constructor <;> rfl

/-- Only a successful construct writes the latched schema. -/
theorem CycleWrite.schema_eq {s : State} {f : State → State} (h : CycleWrite s f) (hc : ¬constructsNext s)
    (t : State) : (f t).schema = t.schema := by
  cases h with
  | construct hw hen =>
    have hfails : (checkConfig s).1 ≠ 0 := fun hpass => hc ⟨hw, hen, hpass⟩
    rw [Reference.constructEffect, if_pos hfails]
  | quiet | stop _ | ignored _ | cfg _ _ | start _ _ _ | field _ _ _ | clearWerr | pop _ => rfl

/-- The write of a successful construct latches the schema of the pre-state's registers. -/
theorem cycleWrite_schema_of_construct {s : State} (hc : constructsNext s) (t : State) :
    (cycleWrite s t).schema = latchSchema s := by
  obtain ⟨⟨hr, ha, hd⟩, hen, hpass⟩ := hc
  have hl : locate s.params ((nextInput s).busAddr.toNat / 4) = .ctrl := by rw [ha]; rfl
  rw [cycleWrite, if_pos hr, Reference.writeEffect, hl]
  dsimp only
  rw [if_pos ⟨hd, hen⟩, Reference.constructEffect, if_neg (not_not.2 hpass)]

/-- A write to a configuration register of a running decoder is ignored (40_configuration.md R173). -/
theorem cycleWrite_cfgWord {s : State} (hv : s.params.Valid) (hen : s.en = true)
    (hr : (nextInput s).busReq = 2) (hcfg : isCfgWord s.params ((nextInput s).busAddr.toNat / 4)) (t : State) :
    cycleWrite s t = ignoredCfgWrite t := by
  obtain ⟨-, -, hstart, -, hfields⟩ := hv
  have hguard : ∀ w, Reference.cfgWriteEffect s t w = ignoredCfgWrite t := fun _ => if_pos hen
  rw [cycleWrite, if_pos hr, Reference.writeEffect]
  rcases hcfg with hn | ⟨hlo, hhi⟩ | ⟨hlo, hhi⟩
  · rw [hn]
    exact hguard _
  · have hw : (nextInput s).busAddr.toNat / 4 - 16 < s.params.startWords := by
      rw [Params.startWords]
      omega
    rw [locate_startWindow s.params hlo (by omega), if_pos hw]
    exact hguard _
  · rw [locate_fieldWindow s.params hlo (by omega), if_pos (by omega)]
    exact hguard _

/-- Settles O54: each part of R85's composition keeps the configuration while EN = 1, and the write comes
last. -/
theorem runningConfigurationIsImmutable : Obligations.RunningConfigurationIsImmutable := by
  intro s hen hrst
  have hstream := streamPart_configKept s
  have hwrite := (cycleWrite_cases s).configKept hen
    (cyclePush s (Reference.coreEffect (coreOp s) (takeInput s)))
  refine ⟨_, step_eq_composedCycle hrst, hwrite.cfg.trans hstream.cfg, hwrite.start.trans hstream.start,
    hwrite.field.trans hstream.field, hwrite.schema.trans hstream.schema, hwrite.sv.trans hstream.sv,
    fun hv hr hcfg => ?_⟩
  exact congrArg State.werr (cycleWrite_cfgWord hv hen hr hcfg _)

/-- Settles O55: of R85's composition only the write can change the schema. -/
theorem onlyConstructChangesTheSchema : Obligations.OnlyConstructChangesTheSchema := by
  intro s hrst
  refine ⟨_, step_eq_composedCycle hrst, fun hc => ?_, fun hc => cycleWrite_schema_of_construct hc _⟩
  exact ((cycleWrite_cases s).schema_eq hc _).trans (streamPart_configKept s).schema

end Sys2Proof.Machine
end

section
/-! The encoder read back by the decoder (30_encoding.md R110 to R112), with obligations O1 and O2. -/

namespace Sys2Proof

/-! ### The registers of the map and their words -/

/-- A slot whose read exists under the parameters is found at its own word address. -/
theorem locate_word {p : Params} {r : Reg} (h : wellFormed p (readInstr r) = true) :
    locate p r.word.toNat = r := by
  cases r with
  | start w => exact locate_start p (of_decide_eq_true h)
  | field i => exact locate_field p (of_decide_eq_true h)
  | recRaw w => exact locate_recRaw p (of_decide_eq_true h)
  | recElem k => exact locate_recElem p (of_decide_eq_true h)
  | unmapped a => exact locate_unmapped p h
  | _ => rfl

/-- A write of a slot exists where its read does. -/
theorem wellFormed_writeInstr (p : Params) (d : Word) (r : Reg) :
    wellFormed p (writeInstr d r) = wellFormed p (readInstr r) := by
  cases r <;> rfl

/-- CONSTRUCT and STOP exist whatever the parameters, as the write to CTRL does. -/
theorem wellFormed_asDecoded (p : Params) (i : Instr) : wellFormed p i.asDecoded = wellFormed p i := by
  cases i <;> rfl

/-- R111 and R112 name no word CONSTRUCT or STOP. -/
theorem asDecoded_readInstr (r : Reg) : (readInstr r).asDecoded = readInstr r := by
  cases r <;> rfl

theorem asDecoded_writeInstr (d : Word) (r : Reg) : (writeInstr d r).asDecoded = writeInstr d r := by
  cases r <;> rfl

theorem asDecoded_decodeBus (p : Params) (write : Bool) (a : BitVec 12) (d : Word) :
    (decodeBus p write a d).asDecoded = decodeBus p write a d := by
  cases write
  · exact asDecoded_readInstr _
  · exact asDecoded_writeInstr d _

theorem asDecoded_decodeCore (sel : BitVec 7) : (decodeCore sel).asDecoded = decodeCore sel := by
  revert sel; decide

/-! ### The words of the encoder -/

/-- The word of a slot's read decodes to the read, where the slot is implemented. -/
theorem decodeTW_readWord {p : Params} {r : Reg} (h : wellFormed p (readInstr r) = true) :
    decodeTW p (readWord r) = .ok (readInstr r) := by
  rw [readWord, decodeTW_read, decodeBus_read_of_locate (r := r)]
  rw [wordAddress_div, locate_word h]

/-- The word of a slot's write decodes to the write, where the slot is implemented. -/
theorem decodeTW_writeWord {p : Params} {r : Reg} (d : Word) (h : wellFormed p (readInstr r) = true) :
    decodeTW p (writeWord r d) = .ok (writeInstr d r) := by
  rw [writeWord, decodeTW_write, decodeBus_write_of_locate (r := r)]
  rw [wordAddress_div, locate_word h]

/-- The four kinds of words, by the channel of R110, each with an operation it is the word of. -/
inductive HasWord : Instr → BitVec 46 → Prop
  | read (r : Reg) : HasWord (readInstr r) (readWord r)
  | write {i : Instr} (r : Reg) (d : Word) (h : i.asDecoded = writeInstr d r) : HasWord i (writeWord r d)
  | core (sel : BitVec 7) : HasWord (decodeCore sel) (coreWord sel)
  | push (b : Byte) : HasWord (.push b) (makeWord 3 0 (b.setWidth 32))

/-- The encoder gives an operation a word of its channel, and only RESET none (R370). -/
theorem encode_cases (i : Instr) :
    i = .reset ∧ encode i = none ∨ ∃ tw, encode i = some tw ∧ HasWord i tw := by
  cases i with
  | reset => exact .inl ⟨rfl, rfl⟩
  | rdId => exact .inr ⟨_, rfl, .read .id⟩
  | rdParams => exact .inr ⟨_, rfl, .read .params⟩
  | rdCtrl => exact .inr ⟨_, rfl, .read .ctrl⟩
  | rdCfg => exact .inr ⟨_, rfl, .read .cfg⟩
  | rdStatus => exact .inr ⟨_, rfl, .read .status⟩
  | rdErr => exact .inr ⟨_, rfl, .read .err⟩
  | rdLayout => exact .inr ⟨_, rfl, .read .layout⟩
  | rdParity => exact .inr ⟨_, rfl, .read .parity⟩
  | rdFillpend => exact .inr ⟨_, rfl, .read .fillpend⟩
  | rdSeeks => exact .inr ⟨_, rfl, .read .seeks⟩
  | rdPfail => exact .inr ⟨_, rfl, .read .pfail⟩
  | rdPsucc => exact .inr ⟨_, rfl, .read .psucc⟩
  | rdRecctrl => exact .inr ⟨_, rfl, .read .recctrl⟩
  | rdHeadptr => exact .inr ⟨_, rfl, .read .headptr⟩
  | rdStart w => exact .inr ⟨_, rfl, .read (.start w)⟩
  | rdField i => exact .inr ⟨_, rfl, .read (.field i)⟩
  | rdRecraw w => exact .inr ⟨_, rfl, .read (.recRaw w)⟩
  | rdRecelem k => exact .inr ⟨_, rfl, .read (.recElem k)⟩
  | rdUnmapped a => exact .inr ⟨_, rfl, .read (.unmapped a)⟩
  | wrRo r d => exact .inr ⟨_, rfl, .write r.slot d (by cases r <;> rfl)⟩
  | wrCtrl d => exact .inr ⟨_, rfl, .write .ctrl d rfl⟩
  | construct hi => exact .inr ⟨_, rfl, .write .ctrl (hi ++ 1#1) rfl⟩
  | stop hi => exact .inr ⟨_, rfl, .write .ctrl (hi ++ 0#1) rfl⟩
  | wrCfg d => exact .inr ⟨_, rfl, .write .cfg d rfl⟩
  | wrErr d => exact .inr ⟨_, rfl, .write .err d rfl⟩
  | wrRecctrl d => exact .inr ⟨_, rfl, .write .recctrl d rfl⟩
  | wrStart w d => exact .inr ⟨_, rfl, .write (.start w) d rfl⟩
  | wrField i d => exact .inr ⟨_, rfl, .write (.field i) d rfl⟩
  | wrUnmapped a d => exact .inr ⟨_, rfl, .write (.unmapped a) d rfl⟩
  | push b => exact .inr ⟨_, rfl, .push b⟩
  | coreIdle row =>
    cases row with
    | disabled => exact .inr ⟨_, rfl, .core 0x00⟩
    | nothingPending => exact .inr ⟨_, rfl, .core 0x40⟩
  | validateAccept => exact .inr ⟨_, rfl, .core 0x65⟩
  | coreStall => exact .inr ⟨_, rfl, .core 0x75⟩
  | validateReject => exact .inr ⟨_, rfl, .core 0x64⟩
  | scanAccum => exact .inr ⟨_, rfl, .core 0x4C⟩
  | scanSeekHit => exact .inr ⟨_, rfl, .core 0x4A⟩
  | scanSeekMiss => exact .inr ⟨_, rfl, .core 0x48⟩

/-- A word decodes to the operation it is the word of, under the name R111 gives it. -/
theorem HasWord.decodeTW_eq {p : Params} {i : Instr} {tw : BitVec 46} (h : HasWord i tw)
    (hi : wellFormed p i = true) : decodeTW p tw = .ok i.asDecoded := by
  cases h with
  | read r => rw [asDecoded_readInstr, decodeTW_readWord hi]
  | write r d h =>
    rw [← wellFormed_asDecoded, h, wellFormed_writeInstr] at hi
    rw [h, decodeTW_writeWord d hi]
  | core sel => rw [asDecoded_decodeCore, decodeTW_core]
  | push b => exact decodeTW_push p b

end Sys2Proof

namespace Sys2Proof.Machine

/-- Settles O2: each operation has a word of its channel, and each channel's words are read back. -/
theorem decodeOfEncodeIsTheOperation : Obligations.DecodeOfEncodeIsTheOperation := by
  refine ⟨fun p i tw hi he => ?_, fun i => ?_⟩
  · obtain ⟨-, hnone⟩ | ⟨tw', hsome, hw⟩ := encode_cases i
    · cases hnone.symm.trans he
    · cases hsome.symm.trans he
      exact hw.decodeTW_eq hi
  · obtain ⟨rfl, hnone⟩ | ⟨tw, hsome, -⟩ := encode_cases i
    · simp [hnone]
    · refine ⟨fun h => ?_, ?_⟩
      · cases hsome.symm.trans h
      · rintro rfl
        cases hsome

/-- Settles O1: each of the sixteen words evaluates to the operation the spec writes beside it. -/
theorem specWordsDecodeAsWritten : Obligations.SpecWordsDecodeAsWritten := by
  unfold Obligations.SpecWordsDecodeAsWritten
  decide

end Sys2Proof.Machine
end

section
/-! What the decoder answers and what it refuses (30_encoding.md R110, R111), with obligation O3, and the
selector against its decode table (R112), with obligation O4. -/

namespace Sys2Proof

/-! ### Words by their channel -/

theorem channel_cases (c : BitVec 2) : c = 0 ∨ c = 1 ∨ c = 2 ∨ c = 3 := by
  revert c; decide

/-- The bits from `k` on are 0 exactly when the value lies below 2^k. -/
theorem highBits_eq_zero_iff (d : Word) {k n : Nat} (h : k + n = 32) :
    d.extractLsb' k n = 0 ↔ d.toNat < 2 ^ k := by
  have hd : d.toNat / 2 ^ k < 2 ^ n := by
    rw [Nat.div_lt_iff_lt_mul (Nat.two_pow_pos k), ← Nat.pow_add, Nat.add_comm n k, h]
    exact d.isLt
  rw [← BitVec.toNat_inj, BitVec.extractLsb'_toNat, Nat.shiftRight_eq_div_pow, Nat.mod_eq_of_lt hd]
  exact Nat.div_eq_zero_iff_lt (Nat.two_pow_pos k)

/-- A word with CH = 00 is a core action where its zero bits are 0, and refused otherwise. -/
theorem decodeTW_core_channel (p : Params) (a : BitVec 12) (d : Word) :
    decodeTW p (makeWord 0 a d) =
      if a = 0 ∧ d.toNat < 128 then .ok (decodeCore (d.extractLsb' 0 7)) else .error .coreWordNotZero := by
  unfold decodeTW
  rw [twChannel_makeWord, twAddr_makeWord, twData_makeWord]
  exact if_congr (and_congr_right' (highBits_eq_zero_iff d (k := 7) rfl)) rfl rfl

/-- A word with CH = 11 is a push where its zero bits are 0, and refused otherwise. -/
theorem decodeTW_push_channel (p : Params) (a : BitVec 12) (d : Word) :
    decodeTW p (makeWord 3 a d) =
      if a = 0 ∧ d.toNat < 256 then .ok (.push (d.extractLsb' 0 8)) else .error .pushWordNotZero := by
  unfold decodeTW
  rw [twChannel_makeWord, twAddr_makeWord, twData_makeWord]
  exact if_congr (and_congr_right' (highBits_eq_zero_iff d (k := 8) rfl)) rfl rfl

/-- Everything a word can decode to. -/
theorem decodeTW_ok_cases {p : Params} {tw : BitVec 46} {i : Instr} (h : decodeTW p tw = .ok i) :
    twChannel tw = 0 ∧ i = decodeCore ((twData tw).extractLsb' 0 7) ∨
    twChannel tw = 1 ∧ i = decodeBus p false (twAddr tw) (twData tw) ∨
    twChannel tw = 2 ∧ i = decodeBus p true (twAddr tw) (twData tw) ∨
    twChannel tw = 3 ∧ i = .push ((twData tw).extractLsb' 0 8) := by
  rw [← makeWord_fields tw] at h
  obtain hc | hc | hc | hc := channel_cases (twChannel tw) <;> rw [hc] at h
  · rw [decodeTW_core_channel] at h
    split at h <;> cases h
    exact .inl ⟨hc, rfl⟩
  · rw [decodeTW_read] at h
    cases h
    exact .inr (.inl ⟨hc, rfl⟩)
  · rw [decodeTW_write] at h
    cases h
    exact .inr (.inr (.inl ⟨hc, rfl⟩))
  · rw [decodeTW_push_channel] at h
    split at h <;> cases h
    exact .inr (.inr (.inr ⟨hc, rfl⟩))

/-- A choice between an operation and a refusal refuses where the condition fails. -/
theorem error_of_ite_iff {c : Prop} [Decidable c] (i : Instr) (e : DecodeError) :
    (∃ e', (if c then .ok i else .error e : Except DecodeError Instr) = .error e') ↔ ¬c := by
  split <;> simp [*]

/-- What the decoder refuses. -/
theorem decodeTW_error_iff (p : Params) (tw : BitVec 46) :
    (∃ e, decodeTW p tw = .error e) ↔
      (twChannel tw = 0 ∧ ¬(twAddr tw = 0 ∧ (twData tw).toNat < 128)) ∨
      (twChannel tw = 3 ∧ ¬(twAddr tw = 0 ∧ (twData tw).toNat < 256)) := by
  rw [← congrArg (decodeTW p) (makeWord_fields tw)]
  obtain hc | hc | hc | hc := channel_cases (twChannel tw) <;> rw [hc]
  · rw [decodeTW_core_channel, error_of_ite_iff]
    simp
  · rw [decodeTW_read]
    simp
  · rw [decodeTW_write]
    simp
  · rw [decodeTW_push_channel, error_of_ite_iff]
    simp

/-! ### What is decoded is well-formed -/

theorem wellFormed_decodeBus (p : Params) (write : Bool) (a : BitVec 12) (d : Word) :
    wellFormed p (decodeBus p write a d) = true := by
  have hl := locate_wellFormed p (wordAddress_lt a)
  cases write
  · exact hl
  · exact (wellFormed_writeInstr p d _).trans hl

/-- A core action exists whatever the parameters. -/
theorem wellFormed_decodeCore (p : Params) (sel : BitVec 7) : wellFormed p (decodeCore sel) = true := by
  obtain ⟨r, hr, -, he⟩ := coreTable_covers sel
  have hall : ∀ r ∈ coreTable, wellFormed p r.action = true := by simp [coreTable, wellFormed]
  exact he ▸ hall r hr

end Sys2Proof

namespace Sys2Proof.Machine

/-- Settles O3: by the channel of the word. -/
theorem decodedOperationsAreWellFormed : Obligations.DecodedOperationsAreWellFormed := by
  refine ⟨fun p tw i h => ?_, decodeTW_error_iff⟩
  obtain ⟨-, rfl⟩ | ⟨-, rfl⟩ | ⟨-, rfl⟩ | ⟨-, rfl⟩ := decodeTW_ok_cases h
  · exact ⟨wellFormed_decodeCore p _, asDecoded_decodeCore _⟩
  · exact ⟨wellFormed_decodeBus p false _ _, asDecoded_decodeBus p false _ _⟩
  · exact ⟨wellFormed_decodeBus p true _ _, asDecoded_decodeBus p true _ _⟩
  · exact ⟨rfl, rfl⟩

/-! ### The selector -/

/-- The bits of the selector, by R112's names. -/
theorem selector_bits (s : State) :
    (selector s).getLsbD 6 = s.en ∧ (selector s).getLsbD 5 = fullFlag s ∧
    (selector s).getLsbD 4 = s.outValid ∧ (selector s).getLsbD 3 = haveFlag s ∧
    (selector s).getLsbD 2 = accumFlag s ∧ (selector s).getLsbD 1 = hitFlag s ∧
    (selector s).getLsbD 0 = passFlag s := by
  unfold selector
  generalize s.en = en, fullFlag s = full, s.outValid = outv, haveFlag s = held, accumFlag s = accum,
    hitFlag s = hit, passFlag s = pass
  revert en full outv held accum hit pass
  decide

/-- The rows of the decode table are disjoint and cover every selector. -/
theorem coreTable_hit_once (sel : BitVec 7) : (coreTable.filter (·.hits sel)).length = 1 := by
  revert sel; decide

/-- A selector that hits a row of the table names the row's action. -/
theorem decodeCore_of_hits {r : SelectorRow} {sel : BitVec 7} (hr : r ∈ coreTable)
    (h : sel &&& r.mask = r.pattern) : decodeCore sel = r.action := by
  obtain ⟨r', hr', hhit, he⟩ := coreTable_covers sel
  obtain ⟨q, hq⟩ := List.length_eq_one_iff.1 (coreTable_hit_once sel)
  have hmem : ∀ t ∈ coreTable, t.hits sel = true → t = q := fun t ht hit =>
    List.mem_singleton.1 (hq ▸ List.mem_filter.2 ⟨ht, hit⟩)
  rw [he, hmem r' hr' hhit, hmem r hr (beq_iff_eq.2 h)]

/-- Settles O4: the bits as the selector is built, and each row of the table, which alone is hit. -/
theorem selectorNamesTheCoreAction : Obligations.SelectorNamesTheCoreAction := by
  refine ⟨selector_bits, fun sel => ?_, coreTable_hit_once⟩
  have row := fun r hr => decodeCore_of_hits (r := r) (sel := sel) hr
  exact ⟨row ⟨0x40, 0x00, .coreIdle .disabled⟩ (by decide),
    row ⟨0x71, 0x61, .validateAccept⟩ (by decide),
    row ⟨0x71, 0x71, .coreStall⟩ (by decide),
    row ⟨0x61, 0x60, .validateReject⟩ (by decide),
    row ⟨0x68, 0x40, .coreIdle .nothingPending⟩ (by decide),
    row ⟨0x6C, 0x4C, .scanAccum⟩ (by decide),
    row ⟨0x6E, 0x4A, .scanSeekHit⟩ (by decide),
    row ⟨0x6E, 0x48, .scanSeekMiss⟩ (by decide)⟩

end Sys2Proof.Machine
end

section
/-! A step as its decoded operations (30_encoding.md R110 to R112, 60_exceptions.md R346), with
obligation O7. -/

namespace Sys2Proof.Machine

/-- A cycle with a reset is RESET. -/
theorem step_of_reset {s : State} (hrst : (nextInput s).rst = true) : step s = exec .reset (takeInput s) := by
  simp [step, hrst]

/-- A cycle without a reset runs its bus access, its core action and its push. -/
theorem step_eq_runOps {s : State} (hrst : (nextInput s).rst = false) :
    step s = runOps (busOp (nextInput s) (takeInput s) ++ coreOp (takeInput s) :: pushOp (nextInput s))
      (cycleStart s) := by
  simp [step, hrst, cycleOps]

/-- Settles O7: the three channels' words decode to the parts of the cycle, which the step runs. -/
theorem stepRunsTheDecodedOperations : Obligations.StepRunsTheDecodedOperations := by
  refine fun s => ⟨step_of_reset, fun hrst => ⟨decodeTW_core _ _, decodeTW_push _ _, fun hread => ?read,
    fun hwrite => ?write, fun hnone => ?none⟩, fun i rest t h => runOps_cons rest h⟩
  case read =>
    refine ⟨_, decodeTW_read _ _ _, ?_⟩
    rw [step_eq_runOps hrst, busOp_read _ hread]
    rfl
  case write =>
    refine ⟨_, decodeTW_write _ _ _, ?_, exec_resolveCtrl (s := cycleStart s) rfl _⟩
    rw [step_eq_runOps hrst, busOp_write _ hwrite]
    rfl
  case none =>
    rw [step_eq_runOps hrst, busOp_none _ hnone]
    rfl

end Sys2Proof.Machine
end

section
/-! The model's placing of a word for the next cycle (log entry 7), with obligation O11. -/

namespace Sys2Proof.Machine

/-! ### The arranged states -/

@[simp] theorem oneByteSchema_startLen (parity : Bool) : (oneByteSchema parity).startLen = 0 := rfl

@[simp] theorem oneByteSchema_payloadLen (parity : Bool) : (oneByteSchema parity).payloadLen = 1 := by
  cases parity <;> decide

@[simp] theorem oneByteSchema_ppres (parity : Bool) : (oneByteSchema parity).ppres = parity := by
  cases parity <;> decide

@[simp] theorem oneByteSchema_poff (parity : Bool) : (oneByteSchema parity).poff = 0 := by
  cases parity <;> decide

@[simp] theorem oneByteSchema_penc (parity : Bool) : (oneByteSchema parity).penc = 0 := by
  cases parity <;> decide

@[simp] theorem oneStartSchema_startLen : oneStartSchema.startLen = 1 := rfl

@[simp] theorem schemaStart_oneStartSchema : schemaStart oneStartSchema 0 = 0x02 := by decide

section
variable (s : State) (l : Schema) (fill pend : Nat) (b : Byte)

@[simp] theorem running_params : (running s l fill pend b).params = s.params := rfl
@[simp] theorem running_en : (running s l fill pend b).en = true := rfl
@[simp] theorem running_sv : (running s l fill pend b).sv = true := rfl
@[simp] theorem running_schema : (running s l fill pend b).schema = l := rfl
@[simp] theorem running_progress : (running s l fill pend b).progress = 0 := rfl
@[simp] theorem running_fill : (running s l fill pend b).fill = fill := rfl
@[simp] theorem running_pend : (running s l fill pend b).pend = pend := rfl

/-- The byte at the head of a running decoder's ring is the one placed there. -/
theorem ringRead_running (h : Memory.wf s.ring = true) : ringRead (running s l fill pend b) 0 = b := by
  calc ringRead (running s l fill pend b) 0
      = Memory.read (ringWrite s 0 b).ring (ringIndex s 0) := rfl
    _ = b := by rw [ringWrite_read 0 b _ h, if_pos rfl]

end

/-- Without a parity field the payload byte passes: it is accepted, or stalls behind a record. -/
theorem coreOp_heldByte (s : State) (b : Byte) (v : Bool) :
    coreOp { running s (oneByteSchema false) 1 0 b with outValid := v } =
      if v then .coreStall else .validateAccept := by
  cases v <;> simp [coreOp_eq, fullFlag, accumFlag, passFlag, passBytes]

/-- A parity field 0x01 over no bytes fails. -/
theorem coreOp_failingByte {s : State} (h : Memory.wf s.ring = true) :
    coreOp (running s (oneByteSchema true) 1 0 1#8) = .validateReject := by
  have hpass : passBytes (oneByteSchema true) (ringRead (running s (oneByteSchema true) 1 0 1#8)) = false := by
    simp [passBytes, ringRead_running _ _ _ _ _ h, parityValue, xorBytes]
  simp [coreOp_eq, fullFlag, accumFlag, passFlag, hpass]

/-- Without start bytes the pending byte is accumulated. -/
theorem coreOp_pendingByte (s : State) (b : Byte) :
    coreOp (running s (oneByteSchema false) 0 1 b) = .scanAccum := by
  simp [coreOp_eq, fullFlag, accumFlag, haveFlag]

/-- A decoder that holds no byte has nothing pending. -/
theorem coreOp_emptyRing (s : State) (b : Byte) :
    coreOp (running s (oneByteSchema false) 0 0 b) = .coreIdle .nothingPending := by
  simp [coreOp_eq, fullFlag, haveFlag]

/-- With the start byte 0x02 the pending byte is compared with it. -/
theorem coreOp_seekingByte {s : State} (h : Memory.wf s.ring = true) (b : Byte) :
    coreOp (running s oneStartSchema 0 1 b) = if b = 0x02 then .scanSeekHit else .scanSeekMiss := by
  simp [coreOp_eq, fullFlag, accumFlag, haveFlag, hitFlag, ringRead_running _ _ _ _ _ h]

/-- A state arranged for an action of the decode table selects it: each row of R112, in its order. -/
theorem coreOp_arrangeCore {s : State} (h : Memory.wf s.ring = true) (sel : BitVec 7) :
    coreOp (arrangeCore s (decodeCore sel)) = decodeCore sel := by
  obtain ⟨r, hr, -, he⟩ := coreTable_covers sel
  rw [he]
  unfold arrangeCore
  split
  · assumption
  fin_cases hr
  · simp [coreOp_eq]
  · exact coreOp_heldByte s 0 false
  · exact coreOp_heldByte s 0 true
  · exact coreOp_failingByte h
  · exact coreOp_emptyRing s 0
  · exact coreOp_pendingByte s 0
  · exact coreOp_seekingByte h 0x02
  · exact coreOp_seekingByte h 0x13

/-- A state arranged for a push takes the offered byte (41_stream_input.md R200). -/
theorem readyFlag_arrangePush {s : State} (hv : s.params.Valid) : readyFlag (arrangePush s) = true := by
  unfold arrangePush
  split
  · assumption
  · rw [readyFlag_iff]
    exact ⟨rfl, hv.1⟩

/-! ### The placed cycle -/

/-- Placing a word that decodes puts its cycle before the inputs to come of the arranged state. -/
theorem withFetchWord_eq {s : State} {tw : BitVec 46} {i : Instr} (h : decodeTW s.params tw = .ok i) :
    s.withFetchWord 48 tw.toNat =
      { arrange s tw with env := wordInput tw :: (arrange s tw).env } := by
  have hlt := tw.isLt
  have hw : tw.toNat % 2 ^ 48 = tw.toNat := Nat.mod_eq_of_lt (by omega)
  simp only [State.withFetchWord, hw, hlt, if_true, BitVec.ofNat_toNat, BitVec.setWidth_eq, placeWord, h]

/-- The inputs of the cycle of a word that is no core word, by its channel. -/
theorem wordInput_read {tw : BitVec 46} (h : twChannel tw = 1) :
    wordInput tw = { CycleIn.idle with busReq := 1, busAddr := twAddr tw } := by
  simp [wordInput, h]

theorem wordInput_write {tw : BitVec 46} (h : twChannel tw = 2) :
    wordInput tw = { CycleIn.idle with busReq := 2, busAddr := twAddr tw, busWdata := twData tw } := by
  simp [wordInput, h]

theorem wordInput_push {tw : BitVec 46} (h : twChannel tw = 3) :
    wordInput tw = { CycleIn.idle with inValid := true, inData := (twData tw).extractLsb' 0 8 } := by
  simp [wordInput, h]

theorem wordInput_rst (tw : BitVec 46) : (wordInput tw).rst = false := by
  unfold wordInput
  split <;> rfl

/-- The state a word is arranged in, by its channel. -/
theorem arrange_core {tw : BitVec 46} (s : State) (h : twChannel tw = 0) :
    arrange s tw = arrangeCore s (decodeCore ((twData tw).extractLsb' 0 7)) := by
  simp [arrange, h]

theorem arrange_bus {tw : BitVec 46} (s : State) (h : twChannel tw = 1 ∨ twChannel tw = 2) :
    arrange s tw = s := by
  obtain h | h := h <;> simp [arrange, h]

theorem arrange_push {tw : BitVec 46} (s : State) (h : twChannel tw = 3) :
    arrange s tw = arrangePush s := by
  simp [arrange, h]

/-- Only a write to CTRL has an effect that the state names. -/
theorem resolveCtrl_readInstr (s : State) (r : Reg) : resolveCtrl s (readInstr r) = readInstr r := by
  cases r <;> rfl

theorem resolveCtrl_decodeCore (s : State) (sel : BitVec 7) :
    resolveCtrl s (decodeCore sel) = decodeCore sel := by
  obtain ⟨r, hr, -, he⟩ := coreTable_covers sel
  rw [he]
  fin_cases hr <;> rfl

/-- The cycle of a placed word has the word's operation among its operations. -/
theorem resolveCtrl_mem_cycleOps {s : State} {tw : BitVec 46} {i : Instr} (hwf : Memory.wf s.ring = true)
    (h : decodeTW s.params tw = .ok i) : resolveCtrl s i ∈ cycleOps (wordInput tw) (arrange s tw) := by
  simp only [cycleOps, List.mem_append, List.mem_cons]
  obtain ⟨hc, rfl⟩ | ⟨hc, rfl⟩ | ⟨hc, rfl⟩ | ⟨hc, rfl⟩ := decodeTW_ok_cases h
  · rw [arrange_core s hc, coreOp_arrangeCore hwf]
    exact .inr (.inl (resolveCtrl_decodeCore s _))
  · rw [arrange_bus s (.inl hc), wordInput_read hc, busOp_read s rfl]
    exact .inl (List.mem_singleton.2 (resolveCtrl_readInstr s _))
  · rw [arrange_bus s (.inr hc), wordInput_write hc, busOp_write s rfl]
    exact .inl (List.mem_singleton.2 rfl)
  · rw [wordInput_push hc]
    exact .inr (.inr (List.mem_singleton.2 rfl))

/-- Settles O11: the placed cycle is the word's inputs in the arranged state. -/
theorem placedWordIsRunByTheNextStep : Obligations.PlacedWordIsRunByTheNextStep := by
  intro s tw i hv hwf h
  rw [withFetchWord_eq h]
  refine ⟨wordInput_rst tw, resolveCtrl_mem_cycleOps hwf h, fun hc => ?_⟩
  rw [arrange_push s hc]
  exact readyFlag_arrangePush hv

end Sys2Proof.Machine
end

section
/-! The configuration registers on the bus (40_configuration.md R161, R166 to R174): the operations of
their offsets, what a read returns and a guarded write stores, with obligations O15, O13, O14 and
O16. -/

namespace Sys2Proof.Machine

/-! ### The operations of a register's offset and of a window -/

/-- A read at the word address of a slot is the slot's read. -/
theorem readsAt_of_locate {n : Nat} {r : Reg} (h : ∀ p, locate p n = r) : ReadsAt n (readInstr r) := by
  intro p a d ha
  rw [decodeTW_read, decodeBus_read_of_locate d (ha ▸ h p)]

/-- A write to the word address of a slot is the slot's write. -/
theorem writesAt_of_locate {n : Nat} {r : Reg} (h : ∀ p, locate p n = r) :
    WritesAt n (fun d => writeInstr d r) := by
  intro p a d ha
  rw [decodeTW_write, decodeBus_write_of_locate d (ha ▸ h p)]

/-- Under legal parameters the entries `r 0`, `r 1`, … lie from the byte address `base` on, `count` of them. -/
abbrev WindowAt (base : Nat) (count : Params → Nat) (r : Nat → Reg) : Prop :=
  ∀ (p : Params) (a : BitVec 12), p.Valid → base ≤ a.toNat → a.toNat < base + 4 * count p →
    locate p (a.toNat / 4) = r ((a.toNat - base) / 4)

theorem readsIn_of_windowAt {base : Nat} {count : Params → Nat} {r : Nat → Reg} (h : WindowAt base count r) :
    ReadsIn base count (fun k => readInstr (r k)) := by
  intro p a d hv hlo hhi
  rw [decodeTW_read, decodeBus_read_of_locate d (h p a hv hlo hhi)]

theorem writesIn_of_windowAt {base : Nat} {count : Params → Nat} {r : Nat → Reg} (h : WindowAt base count r) :
    WritesIn base count (fun k d => writeInstr d (r k)) := by
  intro p a d hv hlo hhi
  rw [decodeTW_write, decodeBus_write_of_locate d (h p a hv hlo hhi)]

/-- START[0], START[1], … lie from 0x040 on (10_state.md R33). -/
theorem windowAt_start : WindowAt 0x040 Params.startWords (fun w => .start (.ofNat 4 w)) := by
  intro p a hv hlo hhi
  obtain ⟨-, -, hmax, -⟩ := hv
  have hcount : p.startWords ≤ 16 := by unfold Params.startWords; omega
  rw [locate_startWindow p (by omega) (by omega), if_pos (by omega),
    show (a.toNat - 0x040) / 4 = a.toNat / 4 - 16 by omega]

/-- FIELD[0], FIELD[1], … lie from 0x080 on (10_state.md R33). -/
theorem windowAt_field : WindowAt 0x080 Params.maxFields (fun i => .field (.ofNat 5 i)) := by
  intro p a hv hlo hhi
  obtain ⟨-, -, -, -, hmax⟩ := hv
  rw [locate_fieldWindow p (by omega) (by omega), if_pos (by omega),
    show (a.toNat - 0x080) / 4 = a.toNat / 4 - 32 by omega]

/-! ### Reads -/

theorem startAt_eq_getElem (s : State) {w : Nat} (h : w < 16) : startAt s w = s.start[w] := by
  simp [startAt, h]

theorem fieldAt_eq_getElem (s : State) {i : Nat} (h : i < 32) : fieldAt s i = s.field[i] := by
  simp [fieldAt, h]

/-- RD_START of an implemented entry drives the entry; so too RD_FIELD. -/
theorem exec_rdStart {s : State} {w : BitVec 4} {v : Word} (hw : w.toNat < s.params.startWords)
    (hv : startAt s w.toNat = v) : exec (.rdStart w) s = .next { s with rdata := v } := by
  rw [← hv]
  exact congrArg Host.Outcome.next (congrArg (setRdata s) (if_pos hw))

theorem exec_rdField {s : State} {i : BitVec 5} {v : Word} (hi : i.toNat < s.params.maxFields)
    (hv : fieldAt s i.toNat = v) : exec (.rdField i) s = .next { s with rdata := v } := by
  rw [← hv]
  exact congrArg Host.Outcome.next (congrArg (setRdata s) (if_pos hi))

/-- A flag as a word. -/
theorem zeroExtend_ofBool (b : Bool) : (BitVec.ofBool b).zeroExtend 32 = if b then 1 else 0 := by
  cases b <;> rfl

/-- Settles O13: each slot by its place in the register map, each read by the entry it drives. -/
theorem configurationReadsReturnTheRegister : Obligations.ConfigurationReadsReturnTheRegister := by
  refine ⟨readsAt_of_locate (r := .ctrl) fun _ => rfl, readsAt_of_locate (r := .cfg) fun _ => rfl,
    readsIn_of_windowAt windowAt_start, readsIn_of_windowAt windowAt_field,
    fun s w i => ⟨?_, rfl, fun hw => exec_rdStart hw (startAt_eq_getElem s w.isLt),
      fun hi => exec_rdField hi (fieldAt_eq_getElem s i.isLt)⟩⟩
  exact congrArg Host.Outcome.next (congrArg (setRdata s) (zeroExtend_ofBool s.en))

/-- The fields of ERR in their places (10_state.md R40). -/
theorem errWord_toNat (s : State) :
    (errWord s).toNat = s.errCode.toNat + 256 * s.errFidx.toNat + 65536 * s.werr.toNat := by
  simp only [errWord, toNat_append_add, toNat_ofBool_eq, BitVec.toNat_ofNat]
  omega

/-- Settles O14: the word RD_ERR drives is ERR, whose value is the sum of its fields. -/
theorem errReadPacksTheErrorFields : Obligations.ErrReadPacksTheErrorFields :=
  ⟨readsAt_of_locate (r := .err) fun _ => rfl, fun s => ⟨errWord s, rfl, errWord_toNat s⟩⟩

/-! ### Writes -/

/-- Settles O16: the write's condition is wdata[16] alone. -/
theorem errWriteClearsOnlyWerr : Obligations.ErrWriteClearsOnlyWerr :=
  ⟨writesAt_of_locate (r := .err) fun _ => rfl, fun _ _ =>
    ⟨fun h => congrArg Host.Outcome.next (if_pos h),
      fun h => congrArg Host.Outcome.next (if_neg (Bool.eq_false_iff.1 h))⟩⟩

/-- While EN = 0 a guarded write is performed. -/
theorem cfgWrite_of_stopped {s : State} (h : s.en = false) (written : State) : cfgWrite s written = written := by
  simp [cfgWrite, h]

/-- While EN = 1 a guarded write only sets WERR (40_configuration.md R173). -/
theorem cfgWrite_of_running {s : State} (h : s.en = true) (written : State) :
    cfgWrite s written = { s with werr := true } := by
  simp [cfgWrite, h, ignoredCfgWrite]

theorem exec_wrStart {s : State} {w : BitVec 4} (d : Word) (hw : w.toNat < s.params.startWords) :
    exec (.wrStart w d) s = .next (cfgWrite s { s with start := s.start.setIfInBounds w.toNat d }) :=
  congrArg Host.Outcome.next (if_pos hw)

theorem exec_wrField {s : State} {i : BitVec 5} (d : Word) (hi : i.toNat < s.params.maxFields) :
    exec (.wrField i d) s =
      .next (cfgWrite s { s with field := s.field.setIfInBounds i.toNat (d &&& fieldMask) }) :=
  congrArg Host.Outcome.next (if_pos hi)

theorem exec_wrCfg (s : State) (d : Word) :
    exec (.wrCfg d) s = .next (cfgWrite s { s with cfg := d &&& cfgMask }) := rfl

/-- Settles O15: each write is the guarded write of its entry, which is then read back. -/
theorem configurationWritesNeedAStoppedDecoder : Obligations.ConfigurationWritesNeedAStoppedDecoder := by
  refine ⟨writesAt_of_locate (r := .cfg) fun _ => rfl, writesIn_of_windowAt windowAt_start,
    writesIn_of_windowAt windowAt_field, fun s d =>
    ⟨fun hen => ⟨?cfg, fun w hw => ?start, fun i hi => ?field⟩,
      fun hen => ⟨?cfgIgnored, fun w hw => ?startIgnored, fun i hi => ?fieldIgnored⟩⟩⟩
  case cfg => rw [exec_wrCfg, cfgWrite_of_stopped hen]; rfl
  case start =>
    have hself : startAt { s with start := s.start.setIfInBounds w.toNat d } w.toNat = d := by
      rw [startAt_set, if_pos ⟨rfl, w.isLt⟩]
    refine ⟨_, by rw [exec_wrStart d hw, cfgWrite_of_stopped hen], rfl, hself, fun v _ hne => ?_,
      exec_rdStart hw hself⟩
    rw [startAt_set, if_neg fun h => hne h.1.symm]
  case field =>
    have hself : fieldAt { s with field := s.field.setIfInBounds i.toNat (d &&& fieldMask) } i.toNat =
        d &&& fieldMask := by
      rw [fieldAt_set, if_pos ⟨rfl, i.isLt⟩]
    refine ⟨_, by rw [exec_wrField d hi, cfgWrite_of_stopped hen], rfl, hself, fun j _ hne => ?_,
      exec_rdField hi hself⟩
    rw [fieldAt_set, if_neg fun h => hne h.1.symm]
  case cfgIgnored => rw [exec_wrCfg, cfgWrite_of_running hen]
  case startIgnored => rw [exec_wrStart d hw, cfgWrite_of_running hen]
  case fieldIgnored => rw [exec_wrField d hi, cfgWrite_of_running hen]

end Sys2Proof.Machine
end

section
/-! Check test by test (40_configuration.md R163): which configuration each test fails, and what passes
them all, with obligation O19. -/

namespace Sys2Proof.Machine

theorem checkConfig_startTooLong {s : State} (h : (cfgStartLen s.cfg).toNat > s.params.maxStart) :
    checkConfig s = (1, 0) := by
  unfold checkConfig
  exact if_pos h

theorem checkConfig_fieldsOutOfRange {s : State} (hstart : (cfgStartLen s.cfg).toNat ≤ s.params.maxStart)
    (h : (cfgNfields s.cfg).toNat = 0 ∨ (cfgNfields s.cfg).toNat > s.params.maxFields) :
    checkConfig s = (2, 0) := by
  unfold checkConfig
  dsimp only
  rw [if_neg (by omega), if_pos h]

/-- The search for a field of unknown type finds none. -/
theorem find_unknownType_none {s : State} (h : typesKnown s) :
    (List.range (cfgNfields s.cfg).toNat).find? (fun i => 8 ≤ (fieldEnc (fieldAt s i)).toNat) = none :=
  find_range_none fun i hi => decide_eq_false (Nat.not_le.2 (h i hi))

section
variable {s : State} (hsizes : sizesLegal s)
include hsizes

/-- The least field of unknown type decides. -/
theorem checkConfig_unknownType {i : Nat} (hi : i < (cfgNfields s.cfg).toNat)
    (h : 8 ≤ (fieldEnc (fieldAt s i)).toNat) (hleast : ∀ j < i, (fieldEnc (fieldAt s j)).toNat < 8) :
    checkConfig s = (3, .ofNat 5 i) := by
  obtain ⟨hstart, hpos, hmax⟩ := hsizes
  have hfind := find_range_some (p := fun i => 8 ≤ (fieldEnc (fieldAt s i)).toNat) hi (decide_eq_true h)
    fun j hj => decide_eq_false (Nat.not_le.2 (hleast j hj))
  unfold checkConfig
  dsimp only
  rw [if_neg (by omega), if_neg (by omega), hfind]

variable (htypes : typesKnown s)
include htypes

/-- The least field of count 0 decides. -/
theorem checkConfig_zeroCount {i : Nat} (hi : i < (cfgNfields s.cfg).toNat)
    (h : fieldCount (fieldAt s i) = 0) (hleast : ∀ j < i, fieldCount (fieldAt s j) ≠ 0) :
    checkConfig s = (4, .ofNat 5 i) := by
  obtain ⟨hstart, hpos, hmax⟩ := hsizes
  have hfind := find_range_some (p := fun i => fieldCount (fieldAt s i) == 0) hi (beq_iff_eq.2 h)
    fun j hj => beq_false_of_ne (hleast j hj)
  unfold checkConfig
  dsimp only
  rw [if_neg (by omega), if_neg (by omega), find_unknownType_none htypes]
  dsimp only
  rw [hfind]

variable (hcounts : countsPositive s)
include hcounts

/-- Known types and positive counts leave the parity tests. -/
theorem checkConfig_eq_checkParity :
    checkConfig s = checkParity s (cfgNfields s.cfg).toNat
      ((List.range (cfgNfields s.cfg).toNat).filter fun i => fieldPar (fieldAt s i)) := by
  obtain ⟨hstart, hpos, hmax⟩ := hsizes
  have hcounted := find_range_none (p := fun i => fieldCount (fieldAt s i) == 0)
    fun j hj => beq_false_of_ne (hcounts j hj)
  unfold checkConfig
  dsimp only
  rw [if_neg (by omega), if_neg (by omega), find_unknownType_none htypes]
  dsimp only
  rw [hcounted]

/-- The second field marked PAR decides. -/
theorem checkConfig_secondParity {i j : Nat} (hij : i < j) (hj : j < (cfgNfields s.cfg).toNat)
    (hi : fieldPar (fieldAt s i) = true) (hpj : fieldPar (fieldAt s j) = true)
    (hfirst : ∀ k < j, fieldPar (fieldAt s k) = true → k = i) : checkConfig s = (5, .ofNat 5 j) := by
  obtain ⟨l, hl⟩ := filter_range_two (p := fun i => fieldPar (fieldAt s i)) hij hj hi hpj hfirst
  rw [checkConfig_eq_checkParity hsizes htypes hcounts, hl]
  rfl

/-- With one field marked PAR its count and size are tested, and the payload after them. -/
theorem checkConfig_oneParity {q : Nat} (hq : onlyParity s q) :
    checkConfig s =
      if fieldCount (fieldAt s q) ≠ 1 then (6, .ofNat 5 q)
      else if encSize (fieldEnc (fieldAt s q)) ≠ 1 then (7, .ofNat 5 q)
      else checkPayload s (cfgNfields s.cfg).toNat := by
  obtain ⟨hlt, hpar, honly⟩ := hq
  rw [checkConfig_eq_checkParity hsizes htypes hcounts,
    filter_range_one (p := fun i => fieldPar (fieldAt s i)) hlt hpar honly]
  rfl

/-- A legal parity field, or none, leaves the payload test. -/
theorem checkConfig_eq_checkPayload (hpar : parityLegal s) :
    checkConfig s = checkPayload s (cfgNfields s.cfg).toNat := by
  by_cases hex : ∃ q < (cfgNfields s.cfg).toNat, fieldPar (fieldAt s q) = true
  · obtain ⟨q, hlt, hq⟩ := hex
    obtain ⟨honly, hcount, hsize⟩ := hpar q hlt hq
    rw [checkConfig_oneParity hsizes htypes hcounts honly, if_neg (not_not.2 hcount),
      if_neg (not_not.2 hsize)]
  · have hnone := filter_range_none (p := fun i => fieldPar (fieldAt s i))
      fun i hi => Bool.eq_false_iff.2 fun hp => hex ⟨i, hi, hp⟩
    rw [checkConfig_eq_checkParity hsizes htypes hcounts, hnone]
    rfl

end

/-- Settles O19: each test of Check by its own lemma. -/
theorem checkReportsTheFirstFailingTest : Obligations.CheckReportsTheFirstFailingTest := by
  refine fun s => ⟨checkConfig_startTooLong, checkConfig_fieldsOutOfRange,
    fun hsizes i => checkConfig_unknownType hsizes, fun hsizes htypes i => checkConfig_zeroCount hsizes htypes,
    fun hsizes htypes hcounts => ⟨fun i j => checkConfig_secondParity hsizes htypes hcounts,
      fun q hq hcount => ?count, fun q hq hcount hsize => ?size, fun hpar hlong => ?long,
      fun hpar hfits => ?pass⟩⟩
  case count => rw [checkConfig_oneParity hsizes htypes hcounts hq, if_pos hcount]
  case size =>
    rw [checkConfig_oneParity hsizes htypes hcounts hq, if_neg (not_not.2 hcount), if_pos hsize]
  case long => rw [checkConfig_eq_checkPayload hsizes htypes hcounts hpar, checkPayload, if_pos hlong]
  case pass =>
    rw [checkConfig_eq_checkPayload hsizes htypes hcounts hpar, checkPayload, if_neg (Nat.not_lt.2 hfits)]

end Sys2Proof.Machine
end

section
/-! CONSTRUCT, STOP and the write to CTRL (40_configuration.md R162, R164, R165), with obligations O20,
O17 and O18. -/

namespace Sys2Proof.Machine

theorem exec_construct_stopped {s : State} (hi : BitVec 31) (h : s.en = false) :
    exec (.construct hi) s = .next (constructDecoder s) := by
  simp [exec, execConstruct, h]

theorem exec_construct_running {s : State} (hi : BitVec 31) (h : s.en = true) :
    exec (.construct hi) s = .next s := by
  simp [exec, execConstruct, h]

theorem exec_stop_stopped {s : State} (hi : BitVec 31) (h : s.en = false) :
    exec (.stop hi) s = .next s := by
  simp [exec, execStop, h]

theorem exec_stop_running {s : State} (hi : BitVec 31) (h : s.en = true) :
    exec (.stop hi) s = .next (stopDecoder s) := by
  simp [exec, execStop, h]

/-- A construct whose Check fails records the error. -/
theorem constructDecoder_of_fails {s : State} (h : (checkConfig s).1 ≠ 0) :
    constructDecoder s = { s with errCode := (checkConfig s).1, errFidx := (checkConfig s).2 } := by
  rcases constructDecoder_cases s with ⟨-, he⟩ | ⟨hpass, -⟩
  · exact he
  · exact absurd hpass h

/-- A construct whose Check passes starts a new decoder. -/
theorem constructDecoder_of_passes {s : State} (h : (checkConfig s).1 = 0) :
    constructDecoder s = newDecoder s := by
  rcases constructDecoder_cases s with ⟨hfail, -⟩ | ⟨-, hn⟩
  · exact absurd h hfail
  · exact hn

/-! ### The derived quantities of the latched schema (10_state.md R52) -/

section
variable {s : State}

theorem schemaFoff_latch {i : Nat} (h : i < (latchSchema s).nf.toNat) (h32 : (latchSchema s).nf.toNat ≤ 32) :
    schemaFoff (latchSchema s) i = sumBelow i (schemaBytes (latchSchema s)) := by
  rw [← latchSchema_idem]
  exact schemaFoff_derive h h32

theorem schemaFelem_latch {i : Nat} (h : i < (latchSchema s).nf.toNat)
    (h32 : (latchSchema s).nf.toNat ≤ 32) :
    schemaFelem (latchSchema s) i = sumBelow i (schemaCount (latchSchema s)) := by
  rw [← latchSchema_idem]
  exact schemaFelem_derive h h32

theorem latchSchema_ppres_iff :
    (latchSchema s).ppres = true ↔ ∃ i < (latchSchema s).nf.toNat, schemaPar (latchSchema s) i = true := by
  rcases deriveSchema_parity (latchSchema s) with ⟨hno, hnone, -⟩ | ⟨hyes, hlt, hpar, -⟩
  · refine ⟨fun h => absurd (hno.symm.trans h) Bool.false_ne_true, fun ⟨i, hi, hp⟩ => ?_⟩
    exact absurd ((hnone i hi).symm.trans hp) Bool.false_ne_true
  · exact ⟨fun _ => ⟨_, hlt, hpar⟩, fun _ => hyes⟩

theorem latchSchema_parity (h32 : (latchSchema s).nf.toNat ≤ 32) (hp : (latchSchema s).ppres = true) :
    (latchSchema s).pidx < (latchSchema s).nf.toNat ∧
    schemaPar (latchSchema s) (latchSchema s).pidx = true ∧
    (latchSchema s).poff = schemaFoff (latchSchema s) (latchSchema s).pidx ∧
    (latchSchema s).penc = schemaEnc (latchSchema s) (latchSchema s).pidx := by
  rcases deriveSchema_parity (latchSchema s) with ⟨hno, -⟩ | ⟨-, hlt, hpar, hoff, henc⟩
  · exact absurd (hno.symm.trans hp) Bool.false_ne_true
  · exact ⟨hlt, hpar, hoff.trans (schemaFoff_latch hlt h32).symm, henc⟩

theorem latchSchema_noParity (hp : (latchSchema s).ppres = false) :
    (latchSchema s).pidx = 0 ∧ (latchSchema s).poff = 0 ∧ (latchSchema s).penc = 0 := by
  rcases deriveSchema_parity (latchSchema s) with ⟨-, -, hzero⟩ | ⟨hyes, -⟩
  · exact hzero
  · exact absurd (hp.symm.trans hyes) Bool.false_ne_true

end

/-- Settles O20: a passing Check latches the schema, whose items and derived quantities have their own
lemmas. -/
theorem constructFollowsCheck : Obligations.ConstructFollowsCheck := by
  refine fun s hi hv => ⟨exec_construct_running hi, fun hen hfail => ?fails, fun hen hpass => ?passes⟩
  case fails => rw [exec_construct_stopped hi hen, constructDecoder_of_fails hfail]
  case passes =>
    obtain ⟨⟨-, -, hnf⟩, -⟩ := checkConfig_passes hpass
    obtain ⟨-, -, h64, -, hmax⟩ := hv
    have h32 : (latchSchema s).nf.toNat ≤ 32 := Nat.le_trans hnf hmax
    exact ⟨newDecoder s, by rw [exec_construct_stopped hi hen, constructDecoder_of_passes hpass],
      rfl, rfl, rfl, rfl, fun j hj => schemaStart_latch hj h64,
      fun i him => ⟨schemaEnc_latch him hmax, schemaPar_latch him hmax, schemaCount_latch him hmax⟩,
      fun i hin => ⟨schemaFoff_latch hin h32, schemaFelem_latch hin h32⟩,
      latchSchema_payloadLen s, latchSchema_nelem s, latchSchema_ppres_iff, latchSchema_parity h32,
      latchSchema_noParity⟩

/-- After a construct attempt with EN = 0 the decoder runs exactly when Check passed. -/
theorem constructDecoder_en {s : State} (hen : s.en = false) :
    (constructDecoder s).en = decide ((checkConfig s).1 = 0) := by
  rcases constructDecoder_cases s with ⟨hfail, he⟩ | ⟨hpass, hn⟩
  · rw [he, decide_eq_false hfail]
    exact hen
  · rw [hn, decide_eq_true hpass, newDecoder_en]

theorem exec_wrCtrl_construct {s : State} {d : Word} (hd : d.getLsbD 0 = true) (hen : s.en = false) :
    exec (.wrCtrl d) s = .next (constructDecoder s) := by
  rw [exec, execWrCtrl, hd, hen]
  rfl

theorem exec_wrCtrl_stop {s : State} {d : Word} (hd : d.getLsbD 0 = false) (hen : s.en = true) :
    exec (.wrCtrl d) s = .next (stopDecoder s) := by
  rw [exec, execWrCtrl, hd, hen]
  rfl

theorem exec_wrCtrl_same {s : State} {d : Word} (hd : d.getLsbD 0 = s.en) :
    exec (.wrCtrl d) s = .next s := by
  rw [exec, execWrCtrl, hd]
  cases s.en <;> rfl

/-- Settles O17: a write to CTRL and the effect it has, by wdata[0] and EN. -/
theorem ctrlWriteConstructsOrStops : Obligations.CtrlWriteConstructsOrStops :=
  ⟨writesAt_of_locate (r := .ctrl) fun _ => rfl, fun _ _ hi =>
    ⟨fun hd hen => ⟨_, exec_wrCtrl_construct hd hen, exec_construct_stopped hi hen, constructDecoder_en hen⟩,
      fun hd hen => ⟨exec_wrCtrl_stop hd hen, exec_stop_running hi hen⟩, exec_wrCtrl_same⟩⟩

/-- Settles O18: by EN. -/
theorem stopClearsOnlyEn : Obligations.StopClearsOnlyEn :=
  fun _ hi => ⟨exec_stop_running hi, exec_stop_stopped hi⟩

end Sys2Proof.Machine
end

section
/-! A stopped decoder (40_configuration.md R165, 70_reset_and_hazards.md R377), with obligation O56. -/

namespace Sys2Proof.Machine

/-- Only a successful construct sets EN. -/
theorem busAccess_stays_stopped {s a : State} (h : BusAccess s a) (hen : s.en = false)
    (hc : ¬constructsNext s) : a.en = false := by
  rcases busAccess_cases h with ⟨v, rfl⟩ | ⟨hr, hw⟩
  · exact hen
  · cases hw with
    | construct hn hd _ =>
      have hfail : (checkConfig s).1 ≠ 0 := fun hpass => hc ⟨⟨hr, hn, hd⟩, hen, hpass⟩
      exact (constructDecoder_en (s := cycleStart s) hen).trans (decide_eq_false hfail)
    | stop => rfl
    | quiet | ignored | cfg | start _ _ | field _ _ | clearWerr | pop _ _ => exact hen

/-- Settles O56: the cycle is its bus access, which keeps the stream state. -/
theorem stoppedDecoderIsFrozen : Obligations.StoppedDecoderIsFrozen := by
  intro s hen hrst hc
  obtain ⟨a, b, t, ha, hb, ht, hstep⟩ := step_parts hrst
  obtain rfl : t = a := stopped_cycle hen ha hb ht
  obtain ⟨-, hsv, hschema, hprogress, hring, hhead, hfill, hpend, hout, hseeks, hpfail, hpsucc, -⟩ :=
    busAccess_streamKept ha hc
  have hready : t.inReady = false := by rw [busAccess_inReady ha, readyFlag, hen, Bool.false_and]
  refine ⟨t, hstep, busAccess_stays_stopped ha hen hc, hsv, hschema, hprogress, hring, hhead, hfill, hpend,
    hout, hseeks, hpfail, hpsucc, hready, busAccess_outValid ha hc, fun hpop => ?_⟩
  rw [busAccess_pop ha hpop]

end Sys2Proof.Machine
end

section
/-! The stream input (41_stream_input.md R200 to R202): the outputs of a cycle, the push and the bytes a
core action frees, with obligations O12, O29 and O30. -/

namespace Sys2Proof.Machine

/-! ### The outputs of a cycle -/

/-- in_ready as R200 writes it. -/
theorem readyFlag_eq (s : State) :
    readyFlag s = (s.en && decide (s.fill + s.pend < s.params.maxPayload)) := rfl

/-- Settles O12: a reset drives rec_valid only; every other cycle is R85's composition, whose outputs come
from the pre-state. -/
theorem outputsAreThoseOfThePreState : Obligations.OutputsAreThoseOfThePreState := by
  intro s
  cases hrst : (nextInput s).rst with
  | true => exact ⟨resetState (takeInput s), step_of_reset hrst, rfl, rfl, rfl⟩
  | false =>
    refine ⟨_, step_eq_composedCycle hrst, rfl, ?ready, ?rdata⟩
    case ready => exact readyFlag_eq s
    case rdata =>
      simp only [true_and]
      rfl

/-! ### The push -/

/-- The tail as R201 writes it. -/
theorem ringTail_eq (s : State) : ringTail s = (s.head + s.fill + s.pend) % s.params.maxPayload := by
  rw [ringTail, ringIndex, Nat.add_assoc, ringCap]

theorem exec_push_ready {s : State} (b : Byte) (h : s.inReady = true) :
    exec (.push b) s = .next (pushByte s b) := by
  rw [exec, execPush, if_pos h]

theorem exec_push_notReady {s : State} (b : Byte) (h : s.inReady = false) :
    exec (.push b) s = .next s := by
  rw [exec, execPush, h]
  rfl

/-- What a push leaves at each index of the ring. -/
theorem pushByte_read {s : State} (b : Byte) (a : Nat) (h : Memory.wf s.ring = true) :
    Memory.read (pushByte s b).ring a =
      if a = (s.head + s.fill + s.pend) % s.params.maxPayload then b else Memory.read s.ring a := by
  rw [pushByte_ring, Memory.read_write _ _ _ h, ringTail_eq]

/-- Settles O29: by the port in_ready. -/
theorem pushWritesOneByteAtTheTail : Obligations.PushWritesOneByteAtTheTail :=
  ⟨decodeTW_push, fun s b hwf =>
    ⟨fun hready => ⟨pushByte s b, exec_push_ready b hready, rfl, Memory.wf_write _ b hwf,
        fun a => pushByte_read b a hwf⟩,
      exec_push_notReady b⟩⟩

/-! ### The bytes a core action frees -/

/-- How many of the ring's bytes an action frees: a seek and a reject give up the byte at HEAD, an accept
the payload. -/
def freedBytes (l : Schema) : Instr → Nat
  | .scanSeekHit | .scanSeekMiss | .validateReject => 1
  | .validateAccept => l.payloadLen
  | _ => 0

/-- A seek gives up one pending byte. -/
theorem dropHead_freed {s : State} (h : 0 < s.pend) :
    (dropHead s).fill + (dropHead s).pend + 1 = s.fill + s.pend := by
  rw [dropHead_fill, dropHead_pend]
  omega

/-- The bytes in use after the core action, with those it freed, are the bytes in use before it. -/
theorem coreAction_freedBytes {s t : State} (h : Inv s) (ht : exec (coreOp s) s = .next t) :
    t.fill + t.pend + freedBytes s.schema (coreOp s) = s.fill + s.pend := by
  rcases coreOp_cases s with ⟨hc, -⟩ | ⟨hc, -, hfull, -⟩ | ⟨hc, -⟩ | ⟨hc, -, hfull, -⟩ | ⟨hc, -⟩ |
    ⟨hc, -, -, hpend, -⟩ | ⟨hc, -, -, hpend, -⟩ | ⟨hc, -, -, hpend, -⟩ <;> rw [hc] at ht ⊢ <;> cases ht
  · rfl
  · have hfill := (full_state hfull).2
    change 0 + s.pend + s.schema.payloadLen = s.fill + s.pend
    omega
  · rfl
  · obtain ⟨hsv, hfill⟩ := full_state hfull
    have hpos := (h.payloadLen_bounds hsv).1
    change 0 + (s.pend + s.schema.payloadLen - 1) + 1 = s.fill + s.pend
    omega
  · rfl
  · change s.fill + 1 + (s.pend - 1) + 0 = s.fill + s.pend
    omega
  · exact dropHead_freed hpend
  · exact dropHead_freed hpend

/-- Settles O30: by the bytes each action frees. -/
theorem coreActionsNeverAddBytes : Obligations.CoreActionsNeverAddBytes := by
  intro s h
  obtain ⟨t, ht⟩ := exec_next (coreOp s) s
  have hheld := coreAction_freedBytes h ht
  refine ⟨t, ht, ?slide, fun hc => ?accum, fun hc => ?accept, ?le⟩
  case slide =>
    rintro (hc | hc | hc) <;> rw [hc] at hheld <;> exact hheld
  case accum => rwa [hc] at hheld
  case accept => rwa [hc] at hheld
  case le => exact (Nat.le_add_right _ _).trans hheld.le

end Sys2Proof.Machine
end

section
/-! The synchronizer's actions (42_synchronizer.md R220 to R225, R228, R229): the selectors of each
action, the choice of the action, the empty start sequence, the tail and the measure, with obligations
O31 to O35. -/

namespace Sys2Proof.Machine

/-! ### The scan actions -/

/-- An action that one row of the decode table names is selected by that row's pattern alone. -/
theorem selectedBy_row {r : SelectorRow} (hr : r ∈ coreTable)
    (honly : ∀ r' ∈ coreTable, r'.action = r.action → r' = r) : SelectedBy r.mask r.pattern r.action := by
  intro p sel
  rw [decodeTW_core, Except.ok.injEq]
  refine ⟨fun h => ?_, decodeCore_of_hits hr⟩
  obtain ⟨r', hr', hhit, he⟩ := coreTable_covers sel
  rw [honly r' hr' (he.symm.trans h)] at hhit
  exact beq_iff_eq.1 hhit

theorem exec_scanSeekMiss (s : State) :
    exec .scanSeekMiss s =
      .next { s with head := (s.head + 1) % s.params.maxPayload, pend := s.pend - 1, progress := 0,
                     seeks := if s.seeks = 0xFFFFFFFF then s.seeks else s.seeks + 1 } := by
  rw [← satInc_eq]
  rfl

/-- Settles O31: each action has one row of the decode table, and its meaning is the update. -/
theorem scanActionsHaveTheirEffects : Obligations.ScanActionsHaveTheirEffects :=
  ⟨selectedBy_row (r := ⟨0x6E, 0x4A, .scanSeekHit⟩) (by decide) (by decide),
    selectedBy_row (r := ⟨0x6E, 0x48, .scanSeekMiss⟩) (by decide) (by decide),
    selectedBy_row (r := ⟨0x6C, 0x4C, .scanAccum⟩) (by decide) (by decide),
    selectedBy_row (r := ⟨0x40, 0x00, .coreIdle .disabled⟩) (by decide) (by decide),
    selectedBy_row (r := ⟨0x68, 0x40, .coreIdle .nothingPending⟩) (by decide) (by decide),
    fun s _ => ⟨rfl, exec_scanSeekMiss s, rfl, rfl⟩⟩

/-- Settles O32: by the signals under which each action is decoded. -/
theorem coreActionIsChosenByTheRule : Obligations.CoreActionIsChosenByTheRule :=
  fun _ => coreOp_eq_coreAction

/-! ### The empty start sequence -/

/-- A core with ACCUM = 1 drops no byte at HEAD and accumulates what is pending: the seeks are decoded with
ACCUM = 0 only. -/
theorem coreOp_of_accum {s : State} (hacc : accumFlag s = true) :
    coreOp s ≠ .scanSeekHit ∧ coreOp s ≠ .scanSeekMiss ∧
      (s.en = true → fullFlag s = false → 0 < s.pend → coreOp s = .scanAccum) := by
  rw [coreOp_eq, haveFlag, hacc]
  split_ifs <;> simp_all

/-- An action that is no hit leaves PROGRESS as it is or clears it. -/
theorem coreAction_progress {s t : State} (ht : exec (coreOp s) s = .next t) (hhit : coreOp s ≠ .scanSeekHit) :
    t.progress = s.progress ∨ t.progress = 0 := by
  have hi := coreOp_isCoreAction s
  generalize coreOp s = i at ht hhit hi
  cases hi <;> cases ht
  case idle | stall | accum => exact .inl rfl
  case accept | reject | miss => exact .inr rfl
  case hit => exact absurd rfl hhit

/-- Settles O33: with L_STARTLEN = 0 and PROGRESS = 0 the core is accumulating. -/
theorem emptyStartSequenceNeverSeeks : Obligations.EmptyStartSequenceNeverSeeks := by
  intro s hsv hlen hprog
  have hacc : accumFlag s = true := (accumFlag_iff s).2 ⟨hsv, by rw [hprog, hlen]; rfl⟩
  obtain ⟨hhit, hmiss, haccum⟩ := coreOp_of_accum hacc
  obtain ⟨t, ht⟩ := exec_next (coreOp s) s
  refine ⟨hacc, hhit, hmiss, haccum, t, ht, (coreAction_flags ht).1 hmiss, ?_⟩
  rcases coreAction_progress ht hhit with h | h
  · exact h.trans hprog
  · exact h

/-! ### The tail and the measure -/

/-- A core action moves the head on by the bytes it frees. -/
theorem coreAction_head {s t : State} (h : Inv s) (ht : exec (coreOp s) s = .next t) :
    t.params = s.params ∧ t.head = ringIndex s (freedBytes s.schema (coreOp s)) := by
  have hstay : s.head = ringIndex s 0 := by
    obtain ⟨-, ⟨-, -, -, -, -, -, -, hhead⟩, -⟩ := h
    exact (Nat.mod_eq_of_lt hhead).symm
  have hi := coreOp_isCoreAction s
  generalize coreOp s = i at ht hi
  cases hi <;> cases ht
  case idle | stall | accum => exact ⟨rfl, hstay⟩
  case accept | reject | hit | miss => exact ⟨rfl, rfl⟩

/-- No core action moves the tail: the head moves on by as many bytes as are freed. -/
theorem coreAction_ringTail {s t : State} (h : Inv s) (ht : exec (coreOp s) s = .next t) :
    ringTail t = ringTail s := by
  obtain ⟨hparams, hhead⟩ := coreAction_head h ht
  have hheld := coreAction_freedBytes h ht
  simp only [ringTail, ringIndex, ringCap] at hhead ⊢
  rw [hhead, hparams, ringIndex_shift, ← hheld, Nat.add_comm (freedBytes _ _)]

/-- Settles O34: by the bytes each action frees. -/
theorem coreActionsKeepTheTail : Obligations.CoreActionsKeepTheTail := by
  intro s h
  obtain ⟨t, ht⟩ := exec_next (coreOp s) s
  refine ⟨t, ht, ?_⟩
  rw [← ringTail_eq, ← ringTail_eq]
  exact coreAction_ringTail h ht

/-- Settles O35: SCAN_ACCUM takes a pending byte into the payload, and every other such action frees at
least one byte. -/
theorem coreActionsLowerTheMeasure : Obligations.CoreActionsLowerTheMeasure := by
  intro s h hidle hstall
  obtain ⟨t, ht⟩ := exec_next (coreOp s) s
  refine ⟨t, ht, ?_⟩
  have hheld := coreAction_freedBytes h ht
  have frees (hpos : 0 < freedBytes s.schema (coreOp s)) : t.fill + t.pend < s.fill + s.pend := by omega
  rcases coreOp_cases s with ⟨hc, -⟩ | ⟨hc, -, hfull, -⟩ | ⟨hc, -⟩ | ⟨hc, -⟩ | ⟨hc, -⟩ | ⟨hc, -, -, hpend, -⟩ |
    ⟨hc, -⟩ | ⟨hc, -⟩
  · exact absurd hc (hidle _)
  · have hpos := (h.payloadLen_bounds (full_state hfull).1).1
    exact .inl (frees (hc ▸ hpos))
  · exact absurd hc hstall
  · exact .inl (frees (hc ▸ Nat.one_pos))
  · exact absurd hc (hidle _)
  · rw [hc] at ht hheld
    cases ht
    exact .inr ⟨hheld, Nat.pred_lt hpend.ne'⟩
  · exact .inl (frees (hc ▸ Nat.one_pos))
  · exact .inl (frees (hc ▸ Nat.one_pos))

end Sys2Proof.Machine
end

section
/-! The reference semantics Feed (42_synchronizer.md R226): its equations by the state it is in, and that
it consumes every finite stream, with obligation O36. -/

namespace Sys2Proof.Machine

/-! ### The equations of Feed -/

section

variable {l : Schema} {f : FeedState} {b : Byte} {rest : List Byte}

/-- The next expected start byte. -/
theorem feedStep_hit (hseek : f.prog < l.startLen.toNat) (hb : b = schemaStart l f.prog) :
    Reference.feedStep l (f, b :: rest) = ({ f with prog := f.prog + 1 }, rest) := by
  rw [Reference.feedStep, if_pos hseek, if_pos hb]

/-- Another byte where a start byte is expected. -/
theorem feedStep_miss (hseek : f.prog < l.startLen.toNat) (hb : b ≠ schemaStart l f.prog) :
    Reference.feedStep l (f, b :: rest) = ({ f with prog := 0, seeks := satInc f.seeks }, rest) := by
  rw [Reference.feedStep, if_pos hseek, if_neg hb]

/-- A payload byte, with the validation of a payload it completes. -/
theorem feedStep_payload (haccum : ¬f.prog < l.startLen.toNat) :
    Reference.feedStep l (f, b :: rest) =
      if f.buf.length + 1 < l.payloadLen then ({ f with buf := f.buf ++ [b] }, rest)
      else Reference.feedValidate l f (f.buf ++ [b]) rest := by
  rw [Reference.feedStep, if_neg haccum, List.length_append, List.length_singleton]

theorem feedValidate_pass {w : List Byte} (h : passBytes l (fun k => w.getD k 0) = true) :
    Reference.feedValidate l f w rest =
      ({ f with prog := 0, buf := [], recs := f.recs ++ [w],
                psucc := if l.ppres then satInc f.psucc else f.psucc }, rest) := by
  rw [Reference.feedValidate, if_pos h]

theorem feedValidate_fail {w : List Byte} (h : passBytes l (fun k => w.getD k 0) = false) :
    Reference.feedValidate l f w rest =
      ({ f with prog := 0, buf := [], pfail := satInc f.pfail }, w.drop 1 ++ rest) := by
  rw [Reference.feedValidate, h]
  rfl

/-- The validation of a payload does not look at the stream after it. -/
theorem feedValidate_append (w more : List Byte) :
    Reference.feedValidate l f w (rest ++ more) =
      ((Reference.feedValidate l f w rest).1, (Reference.feedValidate l f w rest).2 ++ more) := by
  cases h : passBytes l (fun k => w.getD k 0) with
  | true => rw [feedValidate_pass h, feedValidate_pass h]
  | false => rw [feedValidate_fail h, feedValidate_fail h, List.append_assoc]

end

/-! ### Termination -/

/-- The bytes Feed still holds: those of the partial payload and those of the stream. -/
def feedHeld (p : FeedState × List Byte) : Nat := p.1.buf.length + p.2.length

/-- A validation frees at least one byte of the payload. -/
theorem feedHeld_validate_lt (l : Schema) (f : FeedState) {w : List Byte} (rest : List Byte) (hw : w ≠ []) :
    feedHeld (Reference.feedValidate l f w rest) < w.length + rest.length := by
  have hpos := List.length_pos_iff.2 hw
  cases h : passBytes l (fun k => w.getD k 0) with
  | true =>
    rw [feedValidate_pass h]
    simpa [feedHeld] using hpos
  | false =>
    rw [feedValidate_fail h]
    simp only [feedHeld, List.length_nil, List.length_append, List.length_drop]
    omega

/-- An unfolding of Feed frees a byte, or takes a byte of the stream into the payload
(42_synchronizer.md R228). -/
theorem feedStep_lowers (l : Schema) (f : FeedState) (b : Byte) (rest : List Byte) :
    feedHeld (Reference.feedStep l (f, b :: rest)) < feedHeld (f, b :: rest) ∨
      feedHeld (Reference.feedStep l (f, b :: rest)) = feedHeld (f, b :: rest) ∧
        (Reference.feedStep l (f, b :: rest)).2 = rest := by
  by_cases hseek : f.prog < l.startLen.toNat
  · left
    by_cases hb : b = schemaStart l f.prog
    · rw [feedStep_hit hseek hb]
      exact Nat.lt_succ_self _
    · rw [feedStep_miss hseek hb]
      exact Nat.lt_succ_self _
  · rw [feedStep_payload hseek]
    split
    · right
      refine ⟨?_, rfl⟩
      simp only [feedHeld, List.length_append, List.length_cons, List.length_nil]
      omega
    · left
      have hlt := feedHeld_validate_lt l f rest
        (List.append_ne_nil_of_right_ne_nil f.buf (List.cons_ne_nil b []))
      simp only [feedHeld, List.length_append, List.length_cons, List.length_nil] at hlt ⊢
      omega

/-- Feed consumes the stream, by the lexicographic order of R228. -/
theorem feed_consumes (l : Schema) (p : FeedState × List Byte) : ∃ n, (Reference.feed l n p).2 = [] := by
  obtain ⟨f, stream⟩ := p
  cases stream with
  | nil => exact ⟨0, rfl⟩
  | cons b rest =>
    have hlower := feedStep_lowers l f b rest
    obtain ⟨n, hn⟩ := feed_consumes l (Reference.feedStep l (f, b :: rest))
    exact ⟨n + 1, hn⟩
termination_by (feedHeld p, p.2.length)
decreasing_by
  rw [Prod.lex_def]
  rcases hlower with hlt | ⟨heq, hrest⟩
  · exact .inl hlt
  · exact .inr ⟨heq, by rw [hrest]; exact Nat.lt_succ_self _⟩

/-- Settles O36: every unfolding lowers the measure. -/
theorem feedTerminates : Obligations.FeedTerminates :=
  fun l f stream => feed_consumes l (f, stream)

end Sys2Proof.Machine
end

section
/-! The stream a state stands for (42_synchronizer.md R227): the bytes of the ring, and what each core
action makes of them, with obligation O37. -/

namespace Sys2Proof.Machine

/-! ### Bytes of the ring -/

/-- The `n` ring bytes from logical offset `k` on. -/
def ringBytes (s : State) (k n : Nat) : List Byte := (List.range n).map fun j => ringRead s (k + j)

theorem ringPrefix_eq (s : State) (n : Nat) : ringPrefix s n = ringBytes s 0 n := by
  simp only [ringPrefix, ringBytes, Nat.zero_add]

theorem ringPending_eq (s : State) : ringPending s = ringBytes s s.fill s.pend := rfl

theorem ringBytes_succ (s : State) (k n : Nat) :
    ringBytes s k (n + 1) = ringBytes s k n ++ [ringRead s (k + n)] := by
  simp [ringBytes, List.range_succ]

theorem ringBytes_cons (s : State) (k n : Nat) :
    ringBytes s k (n + 1) = ringRead s k :: ringBytes s (k + 1) n := by
  simp [ringBytes, List.range_succ_eq_map, Nat.add_assoc, Nat.add_comm 1]

theorem ringBytes_append (s : State) (k m n : Nat) :
    ringBytes s k m ++ ringBytes s (k + m) n = ringBytes s k (m + n) := by
  simp [ringBytes, List.range_add, Nat.add_assoc]

/-- The bytes of a ring whose head has moved on by `a` bytes. -/
theorem ringBytes_advance {s t : State} {a : Nat} (hparams : t.params = s.params) (hring : t.ring = s.ring)
    (hhead : t.head = ringIndex s a) (k n : Nat) : ringBytes t k n = ringBytes s (a + k) n := by
  refine List.map_congr_left fun j _ => ?_
  simp only [ringRead, ringIndex, ringCap] at hhead ⊢
  rw [hring, hparams, hhead, ringIndex_shift, Nat.add_assoc]

/-- Two rings that agree from offset `k` on below `k + n` hold the same bytes there. -/
theorem ringBytes_congr {s t : State} {k n : Nat} (h : ∀ j < k + n, ringRead t j = ringRead s j) :
    ringBytes t k n = ringBytes s k n :=
  List.map_congr_left fun j hj => h (k + j) (Nat.add_lt_add_left (List.mem_range.1 hj) k)

/-- The pending bytes, first and rest. -/
theorem ringPending_cons {s : State} (h : 0 < s.pend) :
    ringPending s = ringRead s s.fill :: ringBytes s (s.fill + 1) (s.pend - 1) := by
  rw [ringPending_eq, ← ringBytes_cons, Nat.sub_add_cancel h]

/-- PASS as Feed computes it, from the payload as a list. -/
theorem passBytes_ringPrefix {s : State} {n : Nat} (hparity : s.schema.ppres = true → s.schema.poff < n) :
    passBytes s.schema (fun k => (ringPrefix s n).getD k 0) = passBytes s.schema (ringRead s) := by
  cases hp : s.schema.ppres with
  | false => rw [passBytes, passBytes, hp]; rfl
  | true =>
    have hpoff := hparity hp
    have hread : ∀ k < n, (ringPrefix s n).getD k 0 = ringRead s k := fun k hk => by
      simp [ringPrefix, List.getD_eq_getElem?_getD, hk]
    have hmap : (List.range s.schema.poff).map (fun k => (ringPrefix s n).getD k 0) =
        (List.range s.schema.poff).map (ringRead s) :=
      List.map_congr_left fun k hk => hread k ((List.mem_range.1 hk).trans hpoff)
    rw [passBytes, passBytes, hmap, hread _ hpoff]

/-! ### The view of a state -/

/-- Feed's state σ that a state without a full payload stands for. -/
def partialFeed (recs : List (List Byte)) (s : State) : FeedState where
  prog := s.progress
  buf := ringPrefix s s.fill
  seeks := s.seeks
  pfail := s.pfail
  psucc := s.psucc
  recs := recs

theorem streamView_full (recs : List (List Byte)) {s : State} (h : fullFlag s = true) :
    Reference.streamView recs s =
      Reference.feedValidate s.schema (partialFeed recs s) (ringPrefix s s.fill) (ringPending s) :=
  if_pos h

theorem streamView_notFull (recs : List (List Byte)) {s : State} (h : fullFlag s = false) :
    Reference.streamView recs s = (partialFeed recs s, ringPending s) :=
  if_neg (Bool.eq_false_iff.1 h)

/-- An empty payload is not full. -/
theorem notFull_of_empty {s : State} (hfill : s.fill = 0) (hpos : 1 ≤ s.schema.payloadLen) :
    fullFlag s = false :=
  Bool.eq_false_iff.2 fun hfull => by
    have := (full_state hfull).2
    omega

/-- A full payload passes Feed's validation exactly when PASS = 1. -/
theorem passBytes_of_full {s : State} (h : Inv s) (hfull : fullFlag s = true) :
    passBytes s.schema (fun k => (ringPrefix s s.fill).getD k 0) = passFlag s := by
  obtain ⟨hsv, hfill⟩ := full_state hfull
  obtain ⟨-, -, -, -, -, -, -, -, -, hparity⟩ := h.legalSchema hsv
  rw [passBytes_ringPrefix fun hp => hfill ▸ (hparity hp).1, passFlag, hfull, Bool.true_and]

/-- A decoder with an empty payload, whose head has moved on by `a` bytes, stands for the bytes from there
on. -/
theorem streamView_restart (recs : List (List Byte)) {s t : State} {a : Nat} (hparams : t.params = s.params)
    (hring : t.ring = s.ring) (hhead : t.head = ringIndex s a) (hfill : t.fill = 0)
    (hpos : 1 ≤ t.schema.payloadLen) :
    Reference.streamView recs t =
      ({ prog := t.progress, buf := [], seeks := t.seeks, pfail := t.pfail, psucc := t.psucc, recs := recs },
        ringBytes s a t.pend) := by
  rw [streamView_notFull recs (notFull_of_empty hfill hpos), ringPending_eq, hfill,
    ringBytes_advance hparams hring hhead, partialFeed, hfill]
  rfl

/-! ### The view after each core action -/

/-- HIT in a seeking core with a pending byte is the comparison of R220. -/
theorem hitFlag_iff_of_seeking {s : State} (hsv : s.sv = true) (hpend : 0 < s.pend) (hacc : accumFlag s = false) :
    hitFlag s = true ↔ ringRead s 0 = schemaStart s.schema s.progress := by
  simp [hitFlag, haveFlag, hsv, hpend, hacc]

section

variable (recs : List (List Byte)) {s : State} (h : Inv s)
include h

/-- What a seeking core with a pending byte stands for. -/
theorem streamView_seeking (hsv : s.sv = true) (hacc : accumFlag s = false) (hpend : 0 < s.pend) :
    Reference.streamView recs s = (partialFeed recs s, ringRead s 0 :: ringBytes s 1 (s.pend - 1)) := by
  have hfill := (h.seeking hsv hacc).2
  rw [streamView_notFull recs (notFull_of_empty hfill (h.payloadLen_bounds hsv).1), ringPending_cons hpend, hfill]

/-- A seek drops the byte at HEAD from the stream. -/
theorem streamView_dropHead (hsv : s.sv = true) (hacc : accumFlag s = false) (n : Nat) (c : Word) :
    Reference.streamView recs { dropHead s with progress := n, seeks := c } =
      ({ partialFeed recs s with prog := n, seeks := c }, ringBytes s 1 (s.pend - 1)) := by
  have hfill := (h.seeking hsv hacc).2
  have hview := streamView_restart recs (s := s) (t := { dropHead s with progress := n, seeks := c }) (a := 1)
    rfl rfl rfl hfill (h.payloadLen_bounds hsv).1
  rw [hview, partialFeed, hfill]
  rfl

theorem streamView_hit (hsv : s.sv = true) (hacc : accumFlag s = false) (hpend : 0 < s.pend)
    (hhit : hitFlag s = true) :
    Reference.streamView recs { dropHead s with progress := s.progress + 1 } =
      Reference.feedStep s.schema (Reference.streamView recs s) := by
  rw [streamView_seeking recs h hsv hacc hpend, feedStep_hit (h.seeking hsv hacc).1
    ((hitFlag_iff_of_seeking hsv hpend hacc).1 hhit)]
  exact streamView_dropHead recs h hsv hacc (s.progress + 1) s.seeks

theorem streamView_miss (hsv : s.sv = true) (hacc : accumFlag s = false) (hpend : 0 < s.pend)
    (hmiss : hitFlag s = false) :
    Reference.streamView recs { dropHead s with progress := 0, seeks := satInc s.seeks } =
      Reference.feedStep s.schema (Reference.streamView recs s) := by
  have hne := mt (hitFlag_iff_of_seeking hsv hpend hacc).2 (Bool.eq_false_iff.1 hmiss)
  rw [streamView_seeking recs h hsv hacc hpend, feedStep_miss (h.seeking hsv hacc).1 hne]
  exact streamView_dropHead recs h hsv hacc 0 (satInc s.seeks)

/-- SCAN_ACCUM is Feed's payload step, with the validation where the byte completes the payload. -/
theorem streamView_accum (hacc : accumFlag s = true) (hfull : fullFlag s = false) (hpend : 0 < s.pend) :
    Reference.streamView recs { s with fill := s.fill + 1, pend := s.pend - 1 } =
      Reference.feedStep s.schema (Reference.streamView recs s) := by
  obtain ⟨-, hprog⟩ := (accumFlag_iff s).1 hacc
  have hne : s.fill ≠ s.schema.payloadLen := fun he => Bool.eq_false_iff.1 hfull ((fullFlag_iff s).2 ⟨hacc, he⟩)
  have hle := h.fill_le
  have hbuf : (partialFeed recs s).buf.length = s.fill := ringPrefix_length s s.fill
  rw [streamView_notFull recs hfull, ringPending_cons hpend, feedStep_payload hprog.not_lt, hbuf]
  have hprefix : (partialFeed recs s).buf ++ [ringRead s s.fill] = ringPrefix s (s.fill + 1) :=
    (ringPrefix_succ s s.fill).symm
  rw [hprefix]
  split
  · rename_i hlt
    exact streamView_notFull recs (Bool.eq_false_iff.2 fun hf => hlt.ne (full_state hf).2)
  · rename_i hge
    have hlen : s.fill + 1 = s.schema.payloadLen := by omega
    exact streamView_full recs ((fullFlag_iff _).2 ⟨hacc, hlen⟩)

/-- VALIDATE_ACCEPT leaves what Feed's passing validation leaves. -/
theorem streamView_accept (hfull : fullFlag s = true) (hpass : passFlag s = true) (out : Memory) (ov : Bool) :
    Reference.streamView (recs ++ [ringPrefix s s.schema.payloadLen])
        { s with
          out := out, outValid := ov, head := ringIndex s s.schema.payloadLen, fill := 0, progress := 0,
          psucc := if s.schema.ppres then satInc s.psucc else s.psucc } =
      Reference.streamView recs s := by
  obtain ⟨hsv, hfill⟩ := full_state hfull
  rw [streamView_full recs hfull, feedValidate_pass ((passBytes_of_full h hfull).trans hpass), ringPending_eq, hfill]
  exact streamView_restart _ rfl rfl rfl rfl (h.payloadLen_bounds hsv).1

/-- VALIDATE_REJECT leaves what Feed's failing validation leaves. -/
theorem streamView_reject (hfull : fullFlag s = true) (hfail : passFlag s = false) :
    Reference.streamView recs
        { s with
          head := ringIndex s 1, pend := s.pend + s.schema.payloadLen - 1, fill := 0, progress := 0,
          pfail := satInc s.pfail } =
      Reference.streamView recs s := by
  obtain ⟨hsv, hfill⟩ := full_state hfull
  have hpos := (h.payloadLen_bounds hsv).1
  have hstream : (ringPrefix s s.fill).drop 1 ++ ringPending s = ringBytes s 1 (s.pend + s.schema.payloadLen - 1) := by
    obtain ⟨m, hm⟩ : ∃ m, s.fill = m + 1 := ⟨s.fill - 1, by omega⟩
    rw [ringPrefix_eq, ringPending_eq, hm, ringBytes_cons, List.drop_succ_cons, List.drop_zero, Nat.add_comm m 1,
      ringBytes_append]
    congr 1
    omega
  rw [streamView_full recs hfull, feedValidate_fail ((passBytes_of_full h hfull).trans hfail), hstream]
  exact streamView_restart _ rfl rfl rfl rfl hpos

end

/-- The stream state after a core action: one unfolding of Feed where a byte is scanned, none otherwise. -/
theorem coreAction_streamView (recs : List (List Byte)) {s t : State} (h : Inv s) (hen : s.en = true)
    (ht : exec (coreOp s) s = .next t) :
    Reference.streamView (Reference.recordsAfter recs s) t =
      if scans (coreOp s) then Reference.feedStep s.schema (Reference.streamView recs s)
      else Reference.streamView recs s := by
  have hsv : s.sv = true := by
    obtain ⟨-, ⟨-, -, -, -, -, hsv, -⟩, -⟩ := h
    exact hsv hen
  unfold Reference.recordsAfter
  rcases coreOp_cases s with ⟨hc, -⟩ | ⟨hc, -, hfull, hpass, -⟩ | ⟨hc, -⟩ | ⟨hc, -, hfull, hfail⟩ | ⟨hc, -⟩ |
    ⟨hc, -, hfull, hpend, hacc⟩ | ⟨hc, -, -, hpend, hacc, hhit⟩ | ⟨hc, -, -, hpend, hacc, hmiss⟩ <;>
    rw [hc] at ht ⊢ <;> cases ht
  · rfl
  · exact streamView_accept recs h hfull hpass _ _
  · rfl
  · exact streamView_reject recs h hfull hfail
  · rfl
  · exact streamView_accum recs h hacc hfull hpend
  · exact streamView_hit recs h hsv hacc hpend hhit
  · exact streamView_miss recs h hsv hacc hpend hmiss

/-- Settles O37: by the view after each action. -/
theorem coreActionRefinesFeed : Obligations.CoreActionRefinesFeed := by
  intro s recs h hen
  obtain ⟨t, ht⟩ := exec_next (coreOp s) s
  exact ⟨t, ht, coreAction_streamView recs h hen ht⟩

end Sys2Proof.Machine
end

section
/-! A cycle of a running decoder as an unfolding of Feed (42_synchronizer.md R227): the push appends its byte
to the stream and the write does not touch it, with obligation O38. -/

namespace Sys2Proof.Machine

/-! ### The push -/

/-- A push writes none of the bytes in use. -/
theorem ringRead_pushByte {s : State} (hwf : Memory.wf s.ring = true) (hroom : s.fill + s.pend < ringCap s)
    (b : Byte) {j : Nat} (hj : j < s.fill + s.pend) : ringRead (pushByte s b) j = ringRead s j := by
  have hne : ringIndex s j ≠ ringTail s := ringIndex_ne hj (by omega)
  exact (Memory.read_write _ b _ hwf).trans (if_neg hne)

/-- A push writes its byte past the bytes in use. -/
theorem ringRead_pushByte_tail {s : State} (hwf : Memory.wf s.ring = true) (b : Byte) :
    ringRead (pushByte s b) (s.fill + s.pend) = b :=
  (Memory.read_write _ b _ hwf).trans (if_pos rfl)

/-- A push appends its byte to the stream. -/
theorem streamView_pushByte (recs : List (List Byte)) {s : State} (hwf : Memory.wf s.ring = true)
    (hroom : s.fill + s.pend < ringCap s) (b : Byte) :
    Reference.streamView recs (pushByte s b) =
      ((Reference.streamView recs s).1, (Reference.streamView recs s).2 ++ [b]) := by
  have hkept {k n : Nat} (hle : k + n ≤ s.fill + s.pend) : ringBytes (pushByte s b) k n = ringBytes s k n :=
    ringBytes_congr fun j hj => ringRead_pushByte hwf hroom b (by omega)
  have hpayload : ringPrefix (pushByte s b) s.fill = ringPrefix s s.fill := by
    rw [ringPrefix_eq, ringPrefix_eq, hkept (by omega)]
  have hpending : ringPending (pushByte s b) = ringPending s ++ [b] := by
    rw [ringPending_eq, ringPending_eq, pushByte_fill, pushByte_pend, ringBytes_succ, hkept le_rfl,
      ringRead_pushByte_tail hwf]
  have hpartial : partialFeed recs (pushByte s b) = partialFeed recs s := by
    rw [partialFeed, pushByte_fill, hpayload]
    rfl
  cases hfull : fullFlag s with
  | true =>
    rw [streamView_full recs (s := pushByte s b) hfull, streamView_full recs hfull, hpartial, pushByte_fill, hpayload,
      hpending]
    exact feedValidate_append _ _
  | false =>
    rw [streamView_notFull recs (s := pushByte s b) hfull, streamView_notFull recs hfull, hpartial, hpending]

/-- The push of the cycle appends the byte transferred in it, to a state with no more bytes in use. -/
theorem streamView_cyclePush (recs : List (List Byte)) {s t : State} (hwf : Memory.wf t.ring = true)
    (hcap : ringCap t = ringCap s) (hheld : t.fill + t.pend ≤ s.fill + s.pend) :
    Reference.streamView recs (cyclePush s t) =
      ((Reference.streamView recs t).1, (Reference.streamView recs t).2 ++ transferred s) := by
  have hiff : ((nextInput s).inValid && readyFlag s) = true ↔
      (nextInput s).inValid = true ∧ s.en = true ∧ s.fill + s.pend < s.params.maxPayload := by
    rw [Bool.and_eq_true, readyFlag_iff, ringCap]
  unfold cyclePush transferred
  by_cases hpush : (nextInput s).inValid && readyFlag s
  · have hroom : t.fill + t.pend < ringCap t := hcap ▸ hheld.trans_lt (hiff.1 hpush).2.2
    rw [if_pos hpush, if_pos (hiff.1 hpush), streamView_pushByte recs hwf hroom]
  · rw [if_neg hpush, if_neg (mt hiff.2 hpush), List.append_nil]

/-! ### The write and the outputs -/

/-- The write of a running decoder leaves the stream as it is. -/
theorem CycleWrite.streamView_eq {s : State} {f : State → State} (h : CycleWrite s f) (hen : s.en = true)
    (recs : List (List Byte)) (t : State) : Reference.streamView recs (f t) = Reference.streamView recs t := by
  cases h with
  | construct _ hno | cfg _ hno | start _ _ hno | field _ _ hno => exact absurd (hen.symm.trans hno) nofun
  | quiet | stop _ | ignored _ | clearWerr | pop _ => rfl

/-- The stream after a cycle is the stream after its core action and its push. -/
theorem streamView_composedCycle (recs : List (List Byte)) {s : State} (hen : s.en = true) (i : Instr) :
    Reference.streamView recs (composedCycle s i) =
      Reference.streamView recs (cyclePush s (Reference.coreEffect i (takeInput s))) :=
  (cycleWrite_cases s).streamView_eq hen recs _

/-! ### The step -/

/-- One unfolding of Feed or none. -/
theorem feed_ite (l : Schema) (c : Prop) [Decidable c] (p : FeedState × List Byte) :
    Reference.feed l (if c then 1 else 0) p = if c then Reference.feedStep l p else p := by
  split <;> rfl

/-- No core action writes the ring or the parameters. -/
theorem IsCoreAction.ring_params_eq {s : State} {i : Instr} (h : IsCoreAction s i) (t : State) :
    (Reference.coreEffect i t).ring = t.ring ∧ (Reference.coreEffect i t).params = t.params := by
  cases h <;> exact ⟨rfl, rfl⟩

/-- The core action of a cycle, on the state whose inputs are taken. -/
theorem exec_coreOp_takeInput (s : State) :
    exec (coreOp s) (takeInput s) = .next (Reference.coreEffect (coreOp s) (takeInput s)) := by
  obtain ⟨t, ht⟩ := exec_next (coreOp s) (takeInput s)
  rw [Reference.coreEffect, ht]

/-- Settles O38: the core action is at most one unfolding of Feed, the push appends the byte transferred, and
the write and the outputs leave the stream as it is. -/
theorem stepRefinesFeed : Obligations.StepRefinesFeed := by
  intro s recs h hen hrst
  have hexec := exec_coreOp_takeInput s
  have hinv : Inv (takeInput s) := h
  obtain ⟨hring, hparams⟩ := (coreOp_isCoreAction s).ring_params_eq (takeInput s)
  have hheld := coreAction_freedBytes hinv hexec
  have hwf : Memory.wf (Reference.coreEffect (coreOp s) (takeInput s)).ring = true := by
    obtain ⟨-, -, -, -, hwf, -⟩ := h
    rw [hring]
    exact hwf
  have hpush := streamView_cyclePush (s := s) (Reference.recordsAfter recs s) hwf (congrArg Params.maxPayload hparams)
    ((Nat.le_add_right _ _).trans hheld.le)
  have hcore : Reference.streamView (Reference.recordsAfter recs s) (Reference.coreEffect (coreOp s) (takeInput s)) =
      Reference.feed s.schema (if scans (coreOp s) then 1 else 0) (Reference.streamView recs s) :=
    (coreAction_streamView recs hinv hen hexec).trans (feed_ite s.schema _ (Reference.streamView recs s)).symm
  refine ⟨_, if scans (coreOp s) then 1 else 0, step_eq_composedCycle hrst, ?_, ?_⟩
  · split <;> decide
  · rw [streamView_composedCycle _ hen, hpush, hcore]

end Sys2Proof.Machine
end

section
/-! The validator (43_validator.md R250 to R253): when a payload passes, and what an accept, a reject and a
stall do, with obligations O39, O40, O41 and O47. -/

namespace Sys2Proof.Machine

/-! ### PASS -/

/-- A parity field passes when its decoded value is the zero-extended exclusive-or of the bytes before it. -/
theorem passBytes_iff_of_parity {l : Schema} (read : Nat → Byte) (h : l.ppres = true) :
    passBytes l read = true ↔
      parityValue l.penc (read l.poff) = (xorBytes ((List.range l.poff).map read)).zeroExtend 32 := by
  rw [passBytes, h, Bool.not_true, Bool.false_or, beq_iff_eq]

/-- The exclusive-or up to and with a byte is 0 exactly when the byte is the exclusive-or of those before it. -/
theorem xorBytes_range_succ_eq_zero_iff (read : Nat → Byte) (n : Nat) :
    xorBytes ((List.range (n + 1)).map read) = 0 ↔ read n = xorBytes ((List.range n).map read) := by
  rw [List.range_succ, List.map_append, List.map_singleton, xorBytes_snoc, xor_eq_zero_iff_eq]

/-- Settles O39: the parity byte is compared zero-extended, or sign-extended for SINT8. -/
theorem parityPassesWhenTheXorIsZero : Obligations.ParityPassesWhenTheXorIsZero := by
  refine fun l read => ⟨fun hno => ?none, fun hp henc => ?unsigned, fun hp henc => ?signed⟩
  case none => rw [passBytes, hno, Bool.not_false, Bool.true_or]
  case unsigned =>
    rw [passBytes_iff_of_parity read hp, xorBytes_range_succ_eq_zero_iff, parityValue, if_neg henc, zeroExtend_inj]
  case signed =>
    rw [passBytes_iff_of_parity read hp, xorBytes_range_succ_eq_zero_iff, parityValue, if_pos henc,
      signExtend_eq_zeroExtend]

/-! ### Accept -/

/-- PSUCC after an accept, as R251 writes it. -/
theorem acceptCount_eq (ppres : Bool) (c : Word) :
    (if ppres then satInc c else c) = if ppres = true ∧ c ≠ 0xFFFFFFFF then c + 1 else c := by
  rw [satInc_eq, ite_and, ite_not]

/-- Settles O40: by the copy of the payload. -/
theorem acceptCopiesThePayload : Obligations.AcceptCopiesThePayload := by
  refine ⟨selectedBy_row (r := ⟨0x71, 0x61, .validateAccept⟩) (by decide) (by decide), fun s hwf => ?_⟩
  obtain ⟨hcanonical, hread⟩ := copyPayload_spec s s.schema.payloadLen hwf
  refine ⟨_, rfl, ?_, hcanonical, hread⟩
  rw [← acceptCount_eq]
  rfl

/-! ### Reject and stall -/

theorem exec_validateReject (s : State) :
    exec .validateReject s =
      .next { s with
        head := (s.head + 1) % s.params.maxPayload, pend := s.pend + s.schema.payloadLen - 1, fill := 0,
        progress := 0, pfail := if s.pfail = 0xFFFFFFFF then s.pfail else s.pfail + 1 } := by
  rw [← satInc_eq]
  rfl

/-- A rejected payload is full and fails. -/
theorem failing_of_coreOp_reject {s : State} (h : coreOp s = .validateReject) :
    s.en = true ∧ fullFlag s = true ∧ passFlag s = false := by
  simpa [h] using coreOp_cases s

/-- A payload that is rejected has a parity field: without one it passes. -/
theorem parity_of_coreOp_reject {s : State} (h : coreOp s = .validateReject) : s.schema.ppres = true := by
  obtain ⟨-, hfull, hfail⟩ := failing_of_coreOp_reject h
  by_contra hp
  rw [passFlag, hfull, passBytes, Bool.eq_false_iff.2 hp] at hfail
  cases hfail

/-- Settles O41: each action has one row of the decode table, and its meaning is the update. -/
theorem rejectSlidesByOneByte : Obligations.RejectSlidesByOneByte :=
  ⟨selectedBy_row (r := ⟨0x61, 0x60, .validateReject⟩) (by decide) (by decide),
    selectedBy_row (r := ⟨0x71, 0x71, .coreStall⟩) (by decide) (by decide),
    fun s => ⟨parity_of_coreOp_reject, exec_validateReject s, rfl⟩⟩

/-! ### The end of a stall -/

/-- A stalled core is enabled and holds a full payload that passes, behind a record in OUT. -/
theorem passing_of_coreOp_stall {s : State} (h : coreOp s = .coreStall) :
    s.en = true ∧ fullFlag s = true ∧ passFlag s = true ∧ s.outValid = true := by
  simpa [h] using coreOp_cases s

/-- A full payload that passes is accepted while OUT is free. -/
theorem coreOp_of_passing {s : State} (hen : s.en = true) (hfull : fullFlag s = true) (hpass : passFlag s = true)
    (hfree : s.outValid = false) : coreOp s = .validateAccept := by
  simp [coreOp_eq, hen, hfull, hpass, hfree]

/-- A byte pushed behind a full payload does not change whether it passes. -/
theorem passFlag_pushByte {s : State} (h : Inv s) (hfull : fullFlag s = true) (hroom : s.fill + s.pend < ringCap s)
    (b : Byte) : passFlag (pushByte s b) = passFlag s := by
  have hinv : Inv (pushByte s b) := inv_pushByte h (full_state hfull).1 hroom b
  have hpayload : ringPrefix (pushByte s b) s.fill = ringPrefix s s.fill := by
    obtain ⟨-, -, -, -, hwf, -⟩ := h
    rw [ringPrefix_eq, ringPrefix_eq]
    exact ringBytes_congr fun j hj => ringRead_pushByte hwf hroom b (by omega)
  calc passFlag (pushByte s b)
      = passBytes s.schema (fun k => (ringPrefix (pushByte s b) s.fill).getD k 0) :=
        (passBytes_of_full hinv hfull).symm
    _ = passFlag s := by rw [hpayload, passBytes_of_full h hfull]

/-- Settles O47: the POP cycle stalls on the payload, whose bytes no push overwrites, and frees OUT. -/
theorem stalledPayloadIsAcceptedAfterThePop : Obligations.StalledPayloadIsAcceptedAfterThePop := by
  intro s h hstall hrst hpop
  obtain ⟨hen, hfull, hpass, -⟩ := passing_of_coreOp_stall hstall
  obtain ⟨a, b, t, ha, hb, ht, hstep⟩ := step_parts hrst
  have hinv := busAccess_inv ha h
  obtain rfl := busAccess_pop ha hpop
  rw [hstall] at hb
  cases hb
  refine ⟨t, hstep, ?_⟩
  rcases runOps_pushOp_cases ht with rfl | ⟨hready, rfl⟩
  case inl => exact ⟨rfl, rfl, coreOp_of_passing hen hfull hpass rfl⟩
  case inr =>
    have hroom := ((readyFlag_iff s).1 hready).2
    have hkept := passFlag_pushByte hinv hfull hroom (nextInput s).inData
    exact ⟨rfl, rfl, coreOp_of_passing hen hfull (hkept.trans hpass) rfl⟩

end Sys2Proof.Machine
end

section
/-! The record output on the bus (44_record_output.md R282 to R286): the operations of its windows, the
lanes of a raw word, the unpacking of an element and the POP, with obligations O42, O43, O44 and O45. -/

namespace Sys2Proof.Machine

/-! ### The windows of the record -/

/-- REC_RAW[0], REC_RAW[1], … lie from 0x100 on (10_state.md R33). -/
theorem windowAt_recRaw : WindowAt 0x100 Params.recWords (fun w => .recRaw (.ofNat 6 w)) := by
  intro p a hv hlo hhi
  obtain ⟨-, hmax, -⟩ := hv
  have hcount : p.recWords ≤ 64 := by unfold Params.recWords; omega
  rw [locate_recRawWindow p (by omega) (by omega), if_pos (by omega),
    show (a.toNat - 0x100) / 4 = a.toNat / 4 - 64 by omega]

/-- REC_ELEM[0], REC_ELEM[1], … lie from 0x400 on (10_state.md R33). -/
theorem windowAt_recElem : WindowAt 0x400 Params.maxPayload (fun k => .recElem (.ofNat 8 k)) := by
  intro p a hv hlo hhi
  obtain ⟨-, hmax, -⟩ := hv
  rw [locate_recElemWindow p (by omega) (by omega), if_pos (by omega),
    show (a.toNat - 0x400) / 4 = a.toNat / 4 - 256 by omega]

/-! ### Raw words -/

/-- Lane m of four joined bytes is the byte joined in at place m. -/
theorem lane_of_joined_bytes (byte : Nat → Byte) {m : Nat} (hm : m < 4) :
    (byte 3 ++ byte 2 ++ byte 1 ++ byte 0).extractLsb' (8 * m) 8 = byte m := by
  have h0 := (byte 0).isLt
  have h1 := (byte 1).isLt
  have h2 := (byte 2).isLt
  apply BitVec.eq_of_toNat_eq
  simp only [BitVec.extractLsb'_toNat, Nat.shiftRight_eq_div_pow, toNat_append_add]
  interval_cases m <;> omega

theorem rawWord_lane (s : State) (w : Nat) {m : Nat} (hm : m < 4) :
    (rawWord s w).extractLsb' (8 * m) 8 = rawByte s (4 * w + m) :=
  lane_of_joined_bytes (fun j => rawByte s (4 * w + j)) hm

/-- RD_RECRAW of an implemented word drives the word while there is a record that reaches it, else 0. -/
theorem exec_rdRecraw {s : State} {w : BitVec 6} (hw : w.toNat < s.params.recWords) :
    exec (.rdRecraw w) s =
      .next { s with
        rdata := if s.outValid = true ∧ 4 * w.toNat < s.schema.payloadLen then rawWord s w.toNat else 0 } :=
  congrArg (fun v => Host.Outcome.next (setRdata s v)) (if_congr (and_iff_right hw) rfl rfl)

/-- Settles O42: a word the record does not reach has no lane in it either. -/
theorem rawReadReturnsRecordBytes : Obligations.RawReadReturnsRecordBytes := by
  refine ⟨readsIn_of_windowAt windowAt_recRaw, fun s w hw => ⟨_, exec_rdRecraw hw, fun m hm => ?_⟩⟩
  by_cases hread : s.outValid = true ∧ 4 * w.toNat < s.schema.payloadLen
  case pos => rw [if_pos hread, rawWord_lane s _ hm, rawByte, if_congr (and_iff_right hread.1) rfl rfl]
  case neg =>
    have hlane : ¬(s.outValid = true ∧ 4 * w.toNat + m < s.schema.payloadLen) :=
      fun h => hread ⟨h.1, by omega⟩
    rw [if_neg hread, if_neg hlane]
    exact BitVec.extractLsb'_zero

/-! ### Elements -/

/-- RD_RECELEM of an element of the record drives its value. -/
theorem exec_rdRecelem {s : State} {k : BitVec 8} (hk : k.toNat < s.params.maxPayload)
    (hov : s.outValid = true) (hnelem : k.toNat < s.schema.nelem) :
    exec (.rdRecelem k) s = .next { s with rdata := elemValue s k.toNat } :=
  congrArg (fun v => Host.Outcome.next (setRdata s v)) (if_pos ⟨hk, hov, hnelem⟩)

/-- RD_RECELEM without a record, or past it, drives 0. -/
theorem exec_rdRecelem_outside {s : State} {k : BitVec 8} (h : s.outValid = false ∨ s.schema.nelem ≤ k.toNat) :
    exec (.rdRecelem k) s = .next { s with rdata := 0 } := by
  refine congrArg (fun v => Host.Outcome.next (setRdata s v)) (if_neg fun ⟨_, hov, hk⟩ => ?_)
  rcases h with hno | hpast
  · exact Bool.false_ne_true (hno.symm.trans hov)
  · omega

/-- Settles O44: by the case of RD_RECELEM that drives 0. -/
theorem elementReadIsZeroOutsideTheRecord : Obligations.ElementReadIsZeroOutsideTheRecord :=
  ⟨readsIn_of_windowAt windowAt_recElem, fun _ _ => exec_rdRecelem_outside⟩

section
variable {l : Schema} {i : Nat} (h32 : l.nf.toNat ≤ 32) (hl : l = deriveSchema l) (hi : i < l.nf.toNat)
include h32 hl hi

/-- FELEM of a schema with its derived quantities (10_state.md R52). -/
theorem schemaFelem_eq : schemaFelem l i = sumBelow i (schemaCount l) :=
  (congrArg (schemaFelem · i) hl).trans (schemaFelem_derive hi h32)

/-- The elements of an earlier field lie before those of field i. -/
theorem felem_add_count_le {j : Nat} (hj : j < i) : schemaFelem l j + schemaCount l j ≤ schemaFelem l i := by
  rw [schemaFelem_eq h32 hl hi, schemaFelem_eq h32 hl (hj.trans hi)]
  exact sumBelow_add_le _ hj

/-- A field's elements lie below L_NELEM. -/
theorem felem_add_count_le_nelem : schemaFelem l i + schemaCount l i ≤ l.nelem := by
  have hnelem : l.nelem = sumBelow l.nf.toNat (schemaCount l) := congrArg Schema.nelem hl
  rw [schemaFelem_eq h32 hl hi, hnelem]
  exact sumBelow_add_le _ hi

/-- Element FELEM[i] + e belongs to field i: the fields before it have ended. -/
theorem elemField_of_element {e : Nat} (he : e < schemaCount l i) : elemField l (schemaFelem l i + e) = some i := by
  refine find_range_some hi ?own fun j hj => ?before
  case own =>
    rw [Bool.and_eq_true, decide_eq_true_eq, decide_eq_true_eq]
    exact ⟨Nat.le_add_right _ _, Nat.add_lt_add_left he _⟩
  case before =>
    have hend := felem_add_count_le h32 hl hi hj
    rw [Bool.and_eq_false_iff, decide_eq_false_iff_not, decide_eq_false_iff_not]
    exact .inr (by omega)

end

/-- The read of element e of field i drives that element's value. -/
theorem exec_rdRecelem_element {s : State} {i e : Nat} {k : BitVec 8} (hov : s.outValid = true)
    (h32 : s.schema.nf.toNat ≤ 32) (hl : s.schema = deriveSchema s.schema) (hi : i < s.schema.nf.toNat)
    (he : e < schemaCount s.schema i) (hk : k.toNat = schemaFelem s.schema i + e)
    (hmax : k.toNat < s.params.maxPayload) :
    exec (.rdRecelem k) s = .next { s with rdata := fieldElemValue s i e } := by
  have hnelem : k.toNat < s.schema.nelem := by
    have := felem_add_count_le_nelem h32 hl hi
    omega
  have hvalue : elemValue s k.toNat = fieldElemValue s i e := by
    rw [elemValue, hk, elemField_of_element h32 hl hi he]
    exact congrArg (fieldElemValue s i) (Nat.add_sub_cancel_left _ _)
  rw [exec_rdRecelem hmax hov hnelem, hvalue]

/-- The integer that the n bytes from offset o of the record make in the latched byte order (R282). -/
def assembled (s : State) (o n : Nat) : Nat :=
  if s.schema.big then bigEndian (outBytes s o n) else littleEndian (outBytes s o n)

/-- The value of an element whose encoding has n bytes (R282). -/
theorem fieldElemValue_eq {s : State} {i n : Nat} {enc : BitVec 4} (h : schemaEnc s.schema i = enc)
    (hn : encSize enc = n) (e : Nat) :
    fieldElemValue s i e = extendElem enc (assembled s (schemaFoff s.schema i + n * e) n) := by
  subst h hn
  rw [Nat.mul_comm]
  rfl

/-- One byte reads the same in both byte orders. -/
theorem ofNat_assembled_one (s : State) (o : Nat) : BitVec.ofNat 8 (assembled s o 1) = outByte s o := by
  have hbyte : assembled s o 1 = (outByte s o).toNat := ite_self _
  rw [hbyte, BitVec.ofNat_toNat, BitVec.setWidth_eq]

theorem ofNat_assembled_two (s : State) (o : Nat) : BitVec.ofNat 16 (assembled s o 2) = wireWord16 s o := by
  unfold assembled wireWord16
  split
  · exact ofNat_two_bytes _ _
  · exact ofNat_two_bytes _ _

theorem ofNat_assembled_four (s : State) (o : Nat) : BitVec.ofNat 32 (assembled s o 4) = wireWord32 s o := by
  unfold assembled wireWord32
  split
  · exact ofNat_four_bytes _ _ _ _
  · exact ofNat_four_bytes _ _ _ _

/-- A byte zero-extended; so too the extensions of a byte and of two below. -/
theorem zeroExtend_assembled_one (s : State) (o : Nat) :
    zeroExtendBytes 1 (assembled s o 1) = (outByte s o).zeroExtend 32 :=
  congrArg (BitVec.zeroExtend 32) (ofNat_assembled_one s o)

theorem signExtend_assembled_one (s : State) (o : Nat) :
    signExtendBytes 1 (assembled s o 1) = (outByte s o).signExtend 32 :=
  congrArg (BitVec.signExtend 32) (ofNat_assembled_one s o)

theorem zeroExtend_assembled_two (s : State) (o : Nat) :
    zeroExtendBytes 2 (assembled s o 2) = (wireWord16 s o).zeroExtend 32 :=
  congrArg (BitVec.zeroExtend 32) (ofNat_assembled_two s o)

theorem signExtend_assembled_two (s : State) (o : Nat) :
    signExtendBytes 2 (assembled s o 2) = (wireWord16 s o).signExtend 32 :=
  congrArg (BitVec.signExtend 32) (ofNat_assembled_two s o)

/-- Settles O43: the read drives the field's element, whose size and extension its encoding gives. -/
theorem elementReadUnpacksTheField : Obligations.ElementReadUnpacksTheField := by
  intro s i e k hov h32 hl hi he hk hmax
  rw [exec_rdRecelem_element hov h32 hl hi he hk hmax]
  refine ⟨?unsigned8, fun h => ?signed8, fun h => ?unsigned16, fun h => ?signed16, ?fourBytes⟩
  case unsigned8 =>
    rintro (h | h)
    · rw [fieldElemValue_eq h encSize_raw8, Nat.one_mul, extendElem_raw8, zeroExtend_assembled_one]
    · rw [fieldElemValue_eq h encSize_uint8, Nat.one_mul, extendElem_uint8, zeroExtend_assembled_one]
  case signed8 =>
    rw [fieldElemValue_eq h encSize_sint8, Nat.one_mul, extendElem_sint8, signExtend_assembled_one]
  case unsigned16 => rw [fieldElemValue_eq h encSize_uint16, extendElem_uint16, zeroExtend_assembled_two]
  case signed16 => rw [fieldElemValue_eq h encSize_sint16, extendElem_sint16, signExtend_assembled_two]
  case fourBytes =>
    rintro (h | h | h)
    · rw [fieldElemValue_eq h encSize_uint32, extendElem_uint32, ofNat_assembled_four]
    · rw [fieldElemValue_eq h encSize_sint32, extendElem_sint32, ofNat_assembled_four]
    · rw [fieldElemValue_eq h encSize_float32, extendElem_float32, ofNat_assembled_four]

/-! ### The POP -/

/-- Settles O45: by the write's condition. -/
theorem popReleasesTheRecord : Obligations.PopReleasesTheRecord := by
  refine ⟨writesAt_of_locate (r := .recctrl) fun _ => rfl, fun s d => ⟨fun hd hov => ?pop, fun h => ?none⟩⟩
  case pop => exact congrArg Host.Outcome.next (if_pos (Bool.and_eq_true_iff.2 ⟨hd, hov⟩))
  case none =>
    exact congrArg Host.Outcome.next (if_neg (Bool.eq_false_iff.1 (Bool.and_eq_false_iff.2 h)))

end Sys2Proof.Machine
end

section
/-! A valid record is held until it is released (44_record_output.md R280), with obligation O46. -/

namespace Sys2Proof.Machine

/-- OUT, OUT_VALID and the latched schema are the same. -/
structure RecordKept (s t : State) : Prop where
  out : t.out = s.out
  outValid : t.outValid = s.outValid
  schema : t.schema = s.schema

theorem RecordKept.trans {s t u : State} (h : RecordKept s t) (h' : RecordKept t u) : RecordKept s u :=
  ⟨h'.out.trans h.out, h'.outValid.trans h.outValid, h'.schema.trans h.schema⟩

/-- Raw words and elements are read from OUT by the schema alone. -/
theorem RecordKept.rawWord_eq {s t : State} (h : RecordKept s t) (w : Nat) : rawWord t w = rawWord s w := by
  simp only [rawWord, rawByte, h.out, h.schema]

theorem RecordKept.elemValue_eq {s t : State} (h : RecordKept s t) (k : Nat) : elemValue t k = elemValue s k := by
  simp only [elemValue, fieldElemValue, outBytes, h.out, h.schema]

/-- A bus access that neither pops nor constructs. -/
theorem busAccess_recordKept {s a : State} (h : BusAccess s a) (hpop : ¬writesWord s 12 true)
    (hc : ¬constructsNext s) : RecordKept s a := by
  have hstream := busAccess_streamKept h hc
  exact ⟨hstream.out, busAccess_outValid h hc hpop, hstream.schema⟩

/-- Of the core actions only the accept writes OUT, and it needs OUT_VALID = 0 (42_synchronizer.md R220). -/
theorem IsCoreAction.recordKept {s a b : State} {i : Instr} (hi : IsCoreAction s i) (hov : s.outValid = true)
    (h : exec i a = .next b) : RecordKept a b := by
  cases hi with
  | accept hno => exact absurd (hov.symm.trans hno) nofun
  | idle _ | stall | reject | accum | hit | miss => cases h; constructor <;> rfl

theorem pushOp_recordKept {c : CycleIn} {s t : State} (h : runOps (pushOp c) s = .next t) : RecordKept s t := by
  rcases runOps_pushOp_cases h with rfl | ⟨-, rfl⟩ <;> constructor <;> rfl

/-- Settles O46: each part of the cycle keeps the record. -/
theorem recordIsStableUntilReleased : Obligations.RecordIsStableUntilReleased := by
  intro s hov hrst hpop hc
  obtain ⟨a, b, t, ha, hb, ht, hstep⟩ := step_parts hrst
  have hkept : RecordKept s t :=
    ((busAccess_recordKept ha hpop hc).trans ((coreOp_isCoreAction s).recordKept hov hb)).trans
      (pushOp_recordKept ht)
  exact ⟨t, hstep, hkept.out, hkept.outValid.trans hov, hkept.schema, hkept.rawWord_eq, hkept.elemValue_eq⟩

end Sys2Proof.Machine
end

section
/-! The status, identification and counter registers on the bus (45_status_counters.md R320 to R331): the
words their reads drive as arithmetic, and the writes that change nothing, with obligations O22, O23, O24,
O25 and O26. -/

namespace Sys2Proof.Machine

/-! ### The STATUS word (R322) -/

/-- ACCUM and FULL as R55 writes them. -/
theorem accumFlag_eq (s : State) :
    accumFlag s = (s.sv && decide (s.progress = s.schema.startLen.toNat)) := rfl

theorem fullFlag_eq (s : State) :
    fullFlag s = (accumFlag s && decide (s.fill = s.schema.payloadLen)) := rfl

/-- The fields of STATUS in their places (10_state.md R39). -/
theorem statusWord_toNat (s : State) :
    (statusWord s).toNat =
      s.en.toNat + 2 * (accumFlag s).toNat + 4 * (fullFlag s).toNat + 8 * s.outValid.toNat
        + 16 * s.schema.ppres.toNat + 32 * s.schema.big.toNat + 64 * s.sv.toNat
        + 256 * (s.progress % 256) := by
  simp only [statusWord, toNat_append_add, toNat_ofBool_eq, BitVec.toNat_ofNat]
  omega

/-- Settles O23: the word RD_STATUS drives is STATUS, with ACCUM and FULL written out. -/
theorem statusReadPacksTheFlags : Obligations.StatusReadPacksTheFlags := by
  refine ⟨readsAt_of_locate (r := .status) fun _ => rfl, fun s => ⟨statusWord s, rfl, ?_⟩⟩
  rw [statusWord_toNat, fullFlag_eq, accumFlag_eq]

/-! ### Words of two halves (R323 to R326) -/

theorem halfwords_toNat (hi lo : Nat) :
    (BitVec.ofNat 16 hi ++ BitVec.ofNat 16 lo).toNat = lo % 65536 + 65536 * (hi % 65536) := by
  simp only [toNat_append_add, BitVec.toNat_ofNat]
  omega

/-- A flag in bit 16 above a halfword. -/
theorem flag_halfword_toNat (b : Bool) (lo : Nat) :
    (0#15 ++ BitVec.ofBool b ++ BitVec.ofNat 16 lo).toNat = lo % 65536 + 65536 * b.toNat := by
  simp only [toNat_append_add, toNat_ofBool_eq, BitVec.toNat_ofNat]
  omega

/-- Settles O24: each slot by its place in the register map, each word by its two halves. -/
theorem layoutAndOccupancyReads : Obligations.LayoutAndOccupancyReads :=
  ⟨readsAt_of_locate (r := .layout) fun _ => rfl, readsAt_of_locate (r := .parity) fun _ => rfl,
    readsAt_of_locate (r := .fillpend) fun _ => rfl, readsAt_of_locate (r := .headptr) fun _ => rfl,
    fun s =>
      ⟨⟨_, rfl, halfwords_toNat s.schema.nelem s.schema.payloadLen⟩,
        ⟨_, rfl, flag_halfword_toNat s.schema.ppres s.schema.poff⟩,
        ⟨_, rfl, halfwords_toNat s.pend s.fill⟩, ⟨_, rfl, halfwords_toNat 0 s.head⟩⟩⟩

/-! ### Constants and counters (R320, R321, R327 to R329) -/

/-- Legal parameters fit into the fields of PARAMS (10_state.md R36). -/
theorem paramFields_toNat {p : Params} (hp : p.Valid) :
    (BitVec.ofNat 16 p.maxPayload ++ BitVec.ofNat 8 p.maxFields ++ BitVec.ofNat 8 p.maxStart).toNat =
      65536 * p.maxPayload + 256 * p.maxFields + p.maxStart := by
  obtain ⟨-, hpayload, hstart, -, hfields⟩ := hp
  rw [paramFields_append, BitVec.toNat_ofNat]
  omega

/-- Settles O22: each slot by its place in the register map; PARAMS is exact where the parameters are
legal. -/
theorem constantReads : Obligations.ConstantReads :=
  ⟨readsAt_of_locate (r := .id) fun _ => rfl, readsAt_of_locate (r := .params) fun _ => rfl,
    readsAt_of_locate (r := .recctrl) fun _ => rfl,
    fun _ _ => ⟨rfl, fun hp => ⟨_, rfl, paramFields_toNat hp⟩, rfl, rfl⟩⟩

/-- Settles O25: each slot by its place in the register map, and the words are the counters themselves. -/
theorem counterReadsReturnTheCounters : Obligations.CounterReadsReturnTheCounters :=
  ⟨readsAt_of_locate (r := .seeks) fun _ => rfl, readsAt_of_locate (r := .pfail) fun _ => rfl,
    readsAt_of_locate (r := .psucc) fun _ => rfl, fun _ => ⟨rfl, rfl, rfl⟩⟩

/-! ### Writes without effect (R330, R331) -/

/-- The read-only registers among the single registers of the map (10_state.md R33). -/
theorem locate_readOnly {n : Nat} (h : n ∈ [0, 1, 4, 6, 7, 8, 9, 10, 11, 13]) :
    ∃ r : RoReg, ∀ p, locate p n = r.slot := by
  simp only [List.mem_cons, List.not_mem_nil, or_false] at h
  rcases h with rfl | rfl | rfl | rfl | rfl | rfl | rfl | rfl | rfl | rfl
  · exact ⟨.id, fun _ => rfl⟩
  · exact ⟨.params, fun _ => rfl⟩
  · exact ⟨.status, fun _ => rfl⟩
  · exact ⟨.layout, fun _ => rfl⟩
  · exact ⟨.parity, fun _ => rfl⟩
  · exact ⟨.fillpend, fun _ => rfl⟩
  · exact ⟨.seeks, fun _ => rfl⟩
  · exact ⟨.pfail, fun _ => rfl⟩
  · exact ⟨.psucc, fun _ => rfl⟩
  · exact ⟨.headptr, fun _ => rfl⟩

theorem writeInstr_slot (d : Word) (r : RoReg) : writeInstr d r.slot = .wrRo r d := by
  cases r <;> rfl

/-- Settles O26: the single registers by their slots, the entries of the record by their windows. -/
theorem readOnlyAndUnmappedWritesChangeNothing : Obligations.ReadOnlyAndUnmappedWritesChangeNothing := by
  refine ⟨fun p a d n hn ha => ?_, writesIn_of_windowAt windowAt_recRaw, writesIn_of_windowAt windowAt_recElem,
    fun _ _ _ _ => ⟨rfl, rfl⟩⟩
  obtain ⟨r, hr⟩ := locate_readOnly hn
  exact ⟨r, (writesAt_of_locate hr p a d ha).trans (congrArg Except.ok (writeInstr_slot d r))⟩

end Sys2Proof.Machine
end

section
/-! The counters over a cycle (45_status_counters.md R332), with obligation O28. -/

namespace Sys2Proof.Machine

/-- No counter is lower in `t` than in `s`, and all together are higher by at most 1. -/
structure CountersRise (s t : State) : Prop where
  seeks : s.seeks.toNat ≤ t.seeks.toNat
  pfail : s.pfail.toNat ≤ t.pfail.toNat
  psucc : s.psucc.toNat ≤ t.psucc.toNat
  total : t.seeks.toNat + t.pfail.toNat + t.psucc.toNat ≤ s.seeks.toNat + s.pfail.toNat + s.psucc.toNat + 1

/-- The count of an accept (43_validator.md R251) rises by at most 1. -/
theorem acceptCount_bounds (ppres : Bool) (c : Word) :
    c.toNat ≤ (if ppres then satInc c else c).toNat ∧
      (if ppres then satInc c else c).toNat ≤ c.toNat + 1 := by
  split
  · exact satInc_bounds c
  · exact ⟨le_rfl, Nat.le_succ _⟩

/-- A core action counts in one counter at most: a miss in SEEKS, a reject in PFAIL, an accept in PSUCC. -/
theorem IsCoreAction.countersRise {s a b : State} {i : Instr} (hi : IsCoreAction s i)
    (h : exec i a = .next b) : CountersRise a b := by
  cases hi with
  | miss =>
    cases h
    obtain ⟨hlo, hhi⟩ := satInc_bounds a.seeks
    refine ⟨hlo, le_rfl, le_rfl, ?_⟩
    dsimp only [dropHead_pfail, dropHead_psucc]
    omega
  | reject =>
    cases h
    obtain ⟨hlo, hhi⟩ := satInc_bounds a.pfail
    refine ⟨le_rfl, hlo, le_rfl, ?_⟩
    dsimp only
    omega
  | accept _ =>
    cases h
    obtain ⟨hlo, hhi⟩ := acceptCount_bounds a.schema.ppres a.psucc
    exact ⟨le_rfl, le_rfl, hlo, Nat.add_le_add_left hhi _⟩
  | idle _ | stall | accum | hit =>
    cases h
    exact ⟨le_rfl, le_rfl, le_rfl, Nat.le_succ _⟩

/-- Settles O28: the bus access and the push keep the counters, so the cycle raises them as its core
action does. -/
theorem countersRiseByAtMostOne : Obligations.CountersRiseByAtMostOne := by
  intro s hrst hc
  obtain ⟨a, b, t, ha, hb, ht, hstep⟩ := step_parts hrst
  have hkept := busAccess_streamKept ha hc
  have hseeks : a.seeks = s.seeks := hkept.seeks
  have hpfail : a.pfail = s.pfail := hkept.pfail
  have hpsucc : a.psucc = s.psucc := hkept.psucc
  have hrise := (coreOp_isCoreAction s).countersRise hb
  obtain ⟨tseeks, tpfail, tpsucc, -⟩ := pushOp_flags ht
  refine ⟨t, hstep, ?_⟩
  rw [tseeks, tpfail, tpsucc, ← hseeks, ← hpfail, ← hpsucc]
  exact ⟨hrise.seeks, hrise.pfail, hrise.psucc, hrise.total⟩

end Sys2Proof.Machine
end

section
/-! Every cycle has a result, and a reset takes precedence over the other inputs (60_exceptions.md R345,
R346), with obligations O9 and O10. -/

namespace Sys2Proof.Machine

/-- Every cycle answers a next state: a reset is one operation, any other cycle a list of them. -/
theorem step_next (s : State) : ∃ t, step s = .next t := by
  cases hrst : (nextInput s).rst with
  | true =>
    rw [step_of_reset hrst]
    exact exec_next _ _
  | false =>
    rw [step_eq_runOps hrst]
    exact runOps_next _ _

/-- Settles O9: by the laws of the operations and of the step. -/
theorem everyOperationAndStepCompletes : Obligations.EveryOperationAndStepCompletes :=
  ⟨exec_next, step_next⟩

/-- Settles O10: both cycles are RESET in the same state, once their inputs are taken. -/
theorem resetOverridesEveryOtherInput : Obligations.ResetOverridesEveryOtherInput := by
  intro s c d rest hc hd
  calc step { s with env := c :: rest }
      = exec .reset (takeInput { s with env := c :: rest }) := step_of_reset hc
    _ = exec .reset (takeInput { s with env := d :: rest }) := rfl
    _ = step { s with env := d :: rest } := (step_of_reset (s := { s with env := d :: rest }) hd).symm

end Sys2Proof.Machine
end

section
/-! WERR over a cycle (60_exceptions.md R342), read off R85's composition, with obligation O52. -/

namespace Sys2Proof.Machine

/-! ### The slots of the configuration registers -/

/-- A START entry of the map is at the word address of an implemented START[w]. -/
theorem isCfgWord_of_locate_start {p : Params} {n : Nat} {w : BitVec 4} (hn : n < 1024)
    (h : locate p n = .start w) : isCfgWord p n := by
  have himpl : w.toNat < (p.maxStart + 3) / 4 := start_implemented hn h
  have hword : (Reg.start w).word.toNat = n := h ▸ word_locate p hn
  have hw := w.isLt
  simp only [Reg.word, BitVec.toNat_ofNat] at hword
  exact .inr (.inl ⟨by omega, by omega⟩)

/-- A FIELD entry of the map is at the word address of an implemented FIELD[i]. -/
theorem isCfgWord_of_locate_field {p : Params} {n : Nat} {i : BitVec 5} (hn : n < 1024)
    (h : locate p n = .field i) : isCfgWord p n := by
  have himpl := field_implemented hn h
  have hword : (Reg.field i).word.toNat = n := h ▸ word_locate p hn
  have hi := i.isLt
  simp only [Reg.word, BitVec.toNat_ofNat] at hword
  exact .inr (.inr ⟨by omega, by omega⟩)

/-! ### The write of a cycle and WERR -/

/-- The cycle to come writes 1 to bit 16 of ERR (40_configuration.md R174). -/
abbrev clearsWerr (s : State) : Prop :=
  (nextInput s).busReq = 2 ∧ (nextInput s).busAddr.toNat / 4 = 5 ∧ (nextInput s).busWdata.getLsbD 16 = true

/-- The cycle to come writes a configuration register of a running decoder (40_configuration.md R173). -/
abbrev writesCfgWhileRunning (s : State) : Prop :=
  isCfgWord s.params ((nextInput s).busAddr.toNat / 4) ∧ (nextInput s).busReq = 2 ∧ s.en = true

theorem constructEffect_werr (s t : State) : (Reference.constructEffect s t).werr = t.werr := by
  unfold Reference.constructEffect
  split <;> rfl

/-- A guarded write of a stopped decoder is the write itself, so it keeps WERR if the write does. -/
theorem cfgWriteEffect_werr_of_stopped {s t written : State} (hen : s.en = false)
    (hw : written.werr = t.werr) : (Reference.cfgWriteEffect s t written).werr = t.werr := by
  rw [Reference.cfgWriteEffect, hen]
  exact hw

theorem cycleWrite_of_clearsWerr {s : State} (h : clearsWerr s) (t : State) :
    cycleWrite s t = { t with werr := false } := by
  obtain ⟨hr, ha, hd⟩ := h
  have hl : locate s.params ((nextInput s).busAddr.toNat / 4) = .err := by rw [ha]; rfl
  rw [cycleWrite, if_pos hr, Reference.writeEffect, hl]
  exact if_pos hd

/-- Of the slots of the map only ERR and the configuration registers write WERR. -/
theorem cycleWrite_werr {s : State} (hcfg : ¬writesCfgWhileRunning s) (hclear : ¬clearsWerr s) (t : State) :
    (cycleWrite s t).werr = t.werr := by
  unfold cycleWrite
  by_cases hr : (nextInput s).busReq = 2
  case neg => rw [if_neg hr]
  have hn := wordAddress_lt (nextInput s).busAddr
  have hword := word_locate s.params hn
  have hstopped (h : isCfgWord s.params ((nextInput s).busAddr.toNat / 4)) : s.en = false :=
    Bool.eq_false_iff.2 fun hen => hcfg ⟨h, hr, hen⟩
  rw [if_pos hr, Reference.writeEffect]
  cases h : locate s.params ((nextInput s).busAddr.toNat / 4) with
  | ctrl =>
    dsimp only
    split_ifs
    · exact constructEffect_werr s t
    · rfl
    · rfl
  | cfg =>
    rw [h] at hword
    exact cfgWriteEffect_werr_of_stopped (hstopped (.inl hword.symm)) rfl
  | start w => exact cfgWriteEffect_werr_of_stopped (hstopped (isCfgWord_of_locate_start hn h)) rfl
  | field i => exact cfgWriteEffect_werr_of_stopped (hstopped (isCfgWord_of_locate_field hn h)) rfl
  | err =>
    rw [h] at hword
    exact congrArg State.werr (if_neg fun hd => hclear ⟨hr, hword.symm, hd⟩)
  | recctrl =>
    dsimp only
    split <;> rfl
  | id | params | status | layout | parity | fillpend | seeks | pfail | psucc | headptr
  | recRaw _ | recElem _ | unmapped _ => rfl

/-! ### The cycle -/

theorem IsCoreAction.werr_eq {s : State} {i : Instr} (h : IsCoreAction s i) (t : State) :
    (Reference.coreEffect i t).werr = t.werr := by
  cases h <;> rfl

theorem cyclePush_werr (s t : State) : (cyclePush s t).werr = t.werr := by
  unfold cyclePush
  split <;> rfl

/-- Settles O52: R85's composition applies the write last, and its core action and push keep WERR; the
ignored writes are those of O54. -/
theorem werrIsSetByIgnoredWritesOnly : Obligations.WerrIsSetByIgnoredWritesOnly := by
  intro s hv
  cases hrst : (nextInput s).rst with
  | true => exact ⟨_, step_of_reset hrst, fun _ => rfl, nofun⟩
  | false =>
    have hstep := step_eq_composedCycle hrst
    refine ⟨_, hstep, nofun, fun _ => ⟨fun hcfg hr hen => ?ignored, fun hother => ?other⟩⟩
    case ignored =>
      obtain ⟨t, ht, tcfg, tstart, tfield, -, -, twerr⟩ := runningConfigurationIsImmutable s hen hrst
      obtain rfl := Host.Outcome.next.inj (hstep.symm.trans ht)
      exact ⟨twerr hv hr hcfg, tcfg, tstart, tfield⟩
    case other =>
      change (cycleWrite s (cyclePush s (Reference.coreEffect (coreOp s) (takeInput s)))).werr = _
      by_cases hclear : clearsWerr s
      · rw [cycleWrite_of_clearsWerr hclear, decide_eq_true hclear, Bool.not_true, Bool.and_false]
      · rw [cycleWrite_werr hother hclear, cyclePush_werr, (coreOp_isCoreAction s).werr_eq, takeInput_werr,
          decide_eq_false hclear, Bool.not_false, Bool.and_true]

end Sys2Proof.Machine
end

section
/-! RESET and the register map it leaves (70_reset_and_hazards.md R370, R371), with obligations O48 and
O49. -/

namespace Sys2Proof.Machine

/-- Settles O48: RESET by its meaning, its cycle by the law of the step. -/
theorem resetGivesTheResetState : Obligations.ResetGivesTheResetState :=
  ⟨fun _ => ⟨_, rfl, rfl⟩, fun _ => step_of_reset⟩

/-- STATUS after a reset is the same for all parameters; so too ERR. -/
theorem statusWord_resetState (s : State) : statusWord (resetState s) = 0 :=
  calc statusWord (resetState s) = statusWord State.reset := rfl
    _ = 0 := by decide

theorem errWord_resetState (s : State) : errWord (resetState s) = 0 :=
  calc errWord (resetState s) = errWord State.reset := rfl
    _ = 0 := by decide

/-- After a reset every slot of the map past ID and PARAMS reads 0. -/
theorem readValue_resetState (s : State) {a : BitVec 12} (ha : 2 ≤ a.toNat / 4) :
    Reference.readValue (resetState s) a = 0 := by
  have hword := word_locate (resetState s).params (wordAddress_lt a)
  unfold Reference.readValue
  cases h : locate (resetState s).params (a.toNat / 4) with
  | id | params =>
    rw [← hword, h] at ha
    exact absurd ha (by decide)
  | status => exact statusWord_resetState s
  | err => exact errWord_resetState s
  | start w => exact startAt_resetOf s.params w.toNat
  | field i => exact fieldAt_resetOf s.params i.toNat
  | recRaw _ | recElem _ => exact if_neg fun ⟨hvalid, _⟩ => Bool.false_ne_true hvalid
  | layout | fillpend => exact (halfwords_append 0 0).symm.trans (by decide)
  | ctrl | cfg | parity | seeks | pfail | psucc | recctrl | headptr | unmapped _ => rfl

theorem readValue_id (s : State) {a : BitVec 12} (ha : a.toNat / 4 = 0) :
    Reference.readValue s a = 0x46535901 := by
  rw [Reference.readValue, ha]
  rfl

theorem readValue_params_toNat (s : State) {a : BitVec 12} (ha : a.toNat / 4 = 1) :
    (Reference.readValue s a).toNat =
      65536 * (s.params.maxPayload % 65536) + 256 * (s.params.maxFields % 256) + s.params.maxStart % 256 := by
  have hparams : Reference.readValue s a = BitVec.ofNat 32 (s.params.maxPayload % 65536 * 65536 +
      s.params.maxFields % 256 * 256 + s.params.maxStart % 256) := by
    rw [Reference.readValue, ha]
    rfl
  rw [hparams, BitVec.toNat_ofNat]
  omega

/-- Settles O49: the elements by the meaning of RESET, and each read by the value the map gives it. -/
theorem registerMapAfterReset : Obligations.RegisterMapAfterReset :=
  fun s => ⟨resetState s, rfl, rfl, rfl, fun w _ => startAt_resetOf s.params w,
    fun i _ => fieldAt_resetOf s.params i, rfl, rfl, rfl, rfl, rfl, rfl, rfl, rfl, rfl, rfl, rfl, rfl, rfl, rfl,
    rfl, rfl, fun a => ⟨Reference.readValue (resetState s) a, exec_read_readValue _ a 0, readValue_id _,
      readValue_params_toNat _, readValue_resetState s⟩⟩

end Sys2Proof.Machine
end

section
/-! A running decoder's write beside its stream: the cycle of a stop (70_reset_and_hazards.md R379) and
the quiescent core (R382), read off R85's composition, with obligations O57 and O58. -/

namespace Sys2Proof.Machine

/-! ### The write of a cycle and EN -/

theorem cycleWrite_of_noWrite {s : State} (hr : (nextInput s).busReq ≠ 2) (t : State) : cycleWrite s t = t :=
  if_neg hr

theorem readPort_of_noRead {s : State} (hr : (nextInput s).busReq ≠ 1) : readPort s = 0 :=
  if_neg hr

/-- A write of 0 to CTRL of a running decoder is a stop (40_configuration.md R162). -/
theorem cycleWrite_of_stop {s : State} (hen : s.en = true) (hstop : writesWord s 2 false) (t : State) :
    cycleWrite s t = stopDecoder t := by
  obtain ⟨hr, ha, hd⟩ := hstop
  have hl : locate s.params ((nextInput s).busAddr.toNat / 4) = .ctrl := by rw [ha]; rfl
  rw [cycleWrite, if_pos hr, Reference.writeEffect, hl]
  dsimp only
  rw [if_neg fun ⟨h1, _⟩ => Bool.false_ne_true (hd.symm.trans h1), if_pos ⟨hd, hen⟩]
  rfl

/-- Of the writes of a running decoder only a stop writes EN. -/
theorem cycleWrite_en {s : State} (hen : s.en = true) (hstop : ¬writesWord s 2 false) (t : State) :
    (cycleWrite s t).en = t.en := by
  have hword := word_locate s.params (wordAddress_lt (nextInput s).busAddr)
  have hignored (w : State) : (Reference.cfgWriteEffect s t w).en = t.en := by
    rw [Reference.cfgWriteEffect, if_pos hen]
  unfold cycleWrite
  by_cases hr : (nextInput s).busReq = 2
  case neg => rw [if_neg hr]
  rw [if_pos hr, Reference.writeEffect]
  cases h : locate s.params ((nextInput s).busAddr.toNat / 4) with
  | ctrl =>
    rw [h] at hword
    dsimp only
    rw [if_neg fun ⟨_, hno⟩ => Bool.false_ne_true (hno.symm.trans hen),
      if_neg fun ⟨hd, _⟩ => hstop ⟨hr, hword.symm, hd⟩]
  | cfg | start _ | field _ => exact hignored _
  | err | recctrl =>
    dsimp only
    split <;> rfl
  | id | params | status | layout | parity | fillpend | seeks | pfail | psucc | headptr
  | recRaw _ | recElem _ | unmapped _ => rfl

/-! ### The cycle of a stop -/

/-- The cycle of a stop is its core action and its push, and then EN is cleared. -/
theorem step_of_stop {s : State} (hen : s.en = true) (hrst : (nextInput s).rst = false)
    (hstop : writesWord s 2 false) :
    step s = .next
      (withPorts s (stopDecoder (cyclePush s (Reference.coreEffect (coreOp s) (takeInput s)))) 0) := by
  have hr : (nextInput s).busReq ≠ 1 := by
    obtain ⟨hwrite, -⟩ := hstop
    rw [hwrite]
    decide
  rw [step_eq_composedCycle hrst, composedCycle, cycleWrite_of_stop hen hstop, readPort_of_noRead hr]

/-- A cycle without a bus access is its core action and its push. -/
theorem step_of_noAccess {s : State} (hrst : (nextInput s).rst = false) (hr : (nextInput s).busReq = 0) :
    step s = .next (withPorts s (cyclePush s (Reference.coreEffect (coreOp s) (takeInput s))) 0) := by
  rw [step_eq_composedCycle hrst, composedCycle, cycleWrite_of_noWrite (by rw [hr]; decide),
    readPort_of_noRead (by rw [hr]; decide)]

/-- Settles O57: the core action, the push and the outputs do not see the bus access, so the two cycles
differ by the stop alone. -/
theorem stopCycleStillRunsTheCore : Obligations.StopCycleStillRunsTheCore := by
  intro s c rest hen henv hrst hstop
  have hnext : nextInput s = c := by rw [nextInput, henv]
  refine ⟨_, _, step_of_stop hen (by rw [hnext, hrst]) hstop, step_of_noAccess hrst rfl, ?_⟩
  obtain ⟨⟩ := s
  obtain rfl := henv
  rfl

/-! ### The quiescent core -/

/-- The write of a running decoder keeps the stream state. -/
theorem CycleWrite.streamKept {s : State} {f : State → State} (h : CycleWrite s f) (hen : s.en = true)
    (t : State) : StreamKept t (f t) := by
  cases h with
  | construct _ hno | cfg _ hno | start _ _ hno | field _ _ hno => exact absurd (hen.symm.trans hno) nofun
  | quiet | stop _ | ignored _ | clearWerr | pop _ => constructor <;> rfl

theorem coreOp_of_stopped {s : State} (hen : s.en = false) : coreOp s = .coreIdle .disabled := by
  rw [coreOp_eq, if_pos hen]

theorem coreOp_of_quiescent {s : State} (hen : s.en = true) (hfull : fullFlag s = false) (hpend : s.pend = 0) :
    coreOp s = .coreIdle .nothingPending := by
  simp [coreOp_eq, hen, hfull, haveFlag, hpend]

/-- Where no byte is transferred the push changes nothing. -/
theorem cyclePush_of_noTransfer {s : State} (h : transferred s = []) (t : State) : cyclePush s t = t := by
  refine if_neg fun hpush => ?_
  rw [Bool.and_eq_true, readyFlag_iff] at hpush
  exact List.cons_ne_nil _ _ ((if_pos hpush).symm.trans h)

/-- The cycle of an idle core that takes no byte is its write and its outputs. -/
theorem step_of_idle {s : State} {row : IdleRow} (hidle : coreOp s = .coreIdle row)
    (hrst : (nextInput s).rst = false) (hnone : transferred s = []) :
    step s = .next (withPorts s (cycleWrite s (takeInput s)) (readPort s)) := by
  rw [step_eq_composedCycle hrst, composedCycle, cyclePush_of_noTransfer hnone, hidle]
  rfl

/-- Settles O58: the cycle is its write, which keeps the stream state, and the next core action follows
from the EN it leaves. -/
theorem quiescentCoreStaysQuiescent : Obligations.QuiescentCoreStaysQuiescent := by
  intro s hen hfull hpend hrst hnone
  have hkept := (cycleWrite_cases s).streamKept hen (takeInput s)
  have tpend : (cycleWrite s (takeInput s)).pend = 0 := hkept.pend.trans hpend
  have tfull : fullFlag (cycleWrite s (takeInput s)) = false := hkept.fullFlag_eq.trans hfull
  refine ⟨_, step_of_idle (coreOp_of_quiescent hen hfull hpend) hrst hnone, hkept.seeks, hkept.pfail,
    hkept.psucc, hkept.progress, hkept.fill, tpend, hkept.head, hkept.ring, hkept.out, hkept.schema, hkept.sv,
    tfull, fun hrun => ?run, fun hstop => ?stop, fun hr => ?noWrite⟩
  case run =>
    have ten : (cycleWrite s (takeInput s)).en = true := (cycleWrite_en hen hrun _).trans hen
    exact ⟨ten, coreOp_of_quiescent ten tfull tpend⟩
  case stop =>
    rw [cycleWrite_of_stop hen hstop]
    exact ⟨rfl, coreOp_of_stopped rfl⟩
  case noWrite =>
    rw [cycleWrite_of_noWrite hr]
    rfl

end Sys2Proof.Machine
end
